-- ==== Sys2Proof/Word.lean ====
section
/-! DEFINITION. The machine's word (10_state.md R20): a sign and five bytes, byte 0 the most
significant. -/

namespace Sys2Proof

/-- The sign of a word (R20). `+0` and `-0` are different words. -/
inductive Sign
  | plus | minus
  deriving DecidableEq, Repr, Inhabited

/-- The other sign. -/
def Sign.flip : Sign → Sign
  | .plus => .minus
  | .minus => .plus

/-- A byte holds 0 to 255 (00_scope.md R1). -/
abbrev Byte := BitVec 8

/-- A word `(s, [b0,b1,b2,b3,b4])` (R20): every one of these is a legal word. -/
structure Word where
  sign : Sign
  b0 : Byte
  b1 : Byte
  b2 : Byte
  b3 : Byte
  b4 : Byte
  deriving DecidableEq, Repr

/-- Byte `k` of a word, `w.b[k]`, for `k` from 0 to 4 (00_scope.md section 5.1). -/
def Word.byte (w : Word) : Nat → Byte
  | 0 => w.b0
  | 1 => w.b1
  | 2 => w.b2
  | 3 => w.b3
  | 4 => w.b4
  | _ => 0

/-- The word with sign `s` whose byte `k` is `f k`. -/
def Word.ofBytes (s : Sign) (f : Nat → Byte) : Word :=
  { sign := s, b0 := f 0, b1 := f 1, b2 := f 2, b3 := f 3, b4 := f 4 }

/-- `ZERO`, the word `(+,[0,0,0,0,0])` (40_datapath.md R114). -/
def Word.zero : Word :=
  { sign := .plus, b0 := 0, b1 := 0, b2 := 0, b3 := 0, b4 := 0 }

end Sys2Proof
end

