-- ==== Sys2Proof/Syntax.lean ====
section
/-! DEFINITION. The instruction set as syntax: one constructor of `Instr` for each row of
spec/opcode_table.json. Every instruction is one word (30_encoding.md R70, R86), so every
constructor carries the word's sign S, address AA and index selector I; the FIELD class carries
its field specification; a no-operation carries the bytes that its row leaves open. -/

namespace Sys2Proof

/-- The six index registers an index selector can name (30_encoding.md R73). -/
inductive IndexReg
  | i1 | i2 | i3 | i4 | i5 | i6
  deriving DecidableEq, Repr

/-- What every instruction word carries (30_encoding.md R70): the sign S, the unsigned two-byte
address AA (R72), and the index selector I, `none` for I = 0 (R73). A selector of 7 or more is no
operand: decoding it faults (R74). -/
structure Operand where
  sign  : Sign
  addr  : BitVec 16
  index : Option IndexReg
  deriving DecidableEq, Repr

/-- A field specification `(L:R)` (30_encoding.md R77), in positions 0 to 5. Which pairs are valid
is `FieldSpec.valid` (R79). -/
structure FieldSpec where
  left  : Nat
  right : Nat
  deriving DecidableEq, Repr

/-- The instructions. Field specifications appear exactly in the FIELD class of R80. -/
inductive Instr
  /-- NOP at opcode 0, with any F (R251). -/
  | nop (a : Operand) (f : Byte)
  | add (a : Operand) (f : FieldSpec)
  | sub (a : Operand) (f : FieldSpec)
  | mul (a : Operand) (f : FieldSpec)
  | div (a : Operand) (f : FieldSpec)
  | hlt (a : Operand)
  | sla (a : Operand)
  | sra (a : Operand)
  | slax (a : Operand)
  | srax (a : Operand)
  | slc (a : Operand)
  | src (a : Operand)
  | lda (a : Operand) (f : FieldSpec)
  | ld1 (a : Operand) (f : FieldSpec)
  | ld2 (a : Operand) (f : FieldSpec)
  | ld3 (a : Operand) (f : FieldSpec)
  | ld4 (a : Operand) (f : FieldSpec)
  | ld5 (a : Operand) (f : FieldSpec)
  | ld6 (a : Operand) (f : FieldSpec)
  | ldx (a : Operand) (f : FieldSpec)
  | ldan (a : Operand) (f : FieldSpec)
  | ld1n (a : Operand) (f : FieldSpec)
  | ld2n (a : Operand) (f : FieldSpec)
  | ld3n (a : Operand) (f : FieldSpec)
  | ld4n (a : Operand) (f : FieldSpec)
  | ld5n (a : Operand) (f : FieldSpec)
  | ld6n (a : Operand) (f : FieldSpec)
  | ldxn (a : Operand) (f : FieldSpec)
  | sta (a : Operand) (f : FieldSpec)
  | st1 (a : Operand) (f : FieldSpec)
  | st2 (a : Operand) (f : FieldSpec)
  | st3 (a : Operand) (f : FieldSpec)
  | st4 (a : Operand) (f : FieldSpec)
  | st5 (a : Operand) (f : FieldSpec)
  | st6 (a : Operand) (f : FieldSpec)
  | stx (a : Operand) (f : FieldSpec)
  | stj (a : Operand) (f : FieldSpec)
  | stz (a : Operand) (f : FieldSpec)
  | jmp (a : Operand)
  | jsj (a : Operand)
  | jov (a : Operand)
  | jnov (a : Operand)
  | jl (a : Operand)
  | je (a : Operand)
  | jg (a : Operand)
  | jge (a : Operand)
  | jne (a : Operand)
  | jle (a : Operand)
  | jan (a : Operand)
  | jaz (a : Operand)
  | jap (a : Operand)
  | jann (a : Operand)
  | janz (a : Operand)
  | janp (a : Operand)
  | j1n (a : Operand)
  | j1z (a : Operand)
  | j1p (a : Operand)
  | j1nn (a : Operand)
  | j1nz (a : Operand)
  | j1np (a : Operand)
  | j2n (a : Operand)
  | j2z (a : Operand)
  | j2p (a : Operand)
  | j2nn (a : Operand)
  | j2nz (a : Operand)
  | j2np (a : Operand)
  | j3n (a : Operand)
  | j3z (a : Operand)
  | j3p (a : Operand)
  | j3nn (a : Operand)
  | j3nz (a : Operand)
  | j3np (a : Operand)
  | j4n (a : Operand)
  | j4z (a : Operand)
  | j4p (a : Operand)
  | j4nn (a : Operand)
  | j4nz (a : Operand)
  | j4np (a : Operand)
  | j5n (a : Operand)
  | j5z (a : Operand)
  | j5p (a : Operand)
  | j5nn (a : Operand)
  | j5nz (a : Operand)
  | j5np (a : Operand)
  | j6n (a : Operand)
  | j6z (a : Operand)
  | j6p (a : Operand)
  | j6nn (a : Operand)
  | j6nz (a : Operand)
  | j6np (a : Operand)
  | jxn (a : Operand)
  | jxz (a : Operand)
  | jxp (a : Operand)
  | jxnn (a : Operand)
  | jxnz (a : Operand)
  | jxnp (a : Operand)
  | inca (a : Operand)
  | deca (a : Operand)
  | enta (a : Operand)
  | enna (a : Operand)
  | inc1 (a : Operand)
  | dec1 (a : Operand)
  | ent1 (a : Operand)
  | enn1 (a : Operand)
  | inc2 (a : Operand)
  | dec2 (a : Operand)
  | ent2 (a : Operand)
  | enn2 (a : Operand)
  | inc3 (a : Operand)
  | dec3 (a : Operand)
  | ent3 (a : Operand)
  | enn3 (a : Operand)
  | inc4 (a : Operand)
  | dec4 (a : Operand)
  | ent4 (a : Operand)
  | enn4 (a : Operand)
  | inc5 (a : Operand)
  | dec5 (a : Operand)
  | ent5 (a : Operand)
  | enn5 (a : Operand)
  | inc6 (a : Operand)
  | dec6 (a : Operand)
  | ent6 (a : Operand)
  | enn6 (a : Operand)
  | incx (a : Operand)
  | decx (a : Operand)
  | entx (a : Operand)
  | ennx (a : Operand)
  | cmpa (a : Operand) (f : FieldSpec)
  | cmp1 (a : Operand) (f : FieldSpec)
  | cmp2 (a : Operand) (f : FieldSpec)
  | cmp3 (a : Operand) (f : FieldSpec)
  | cmp4 (a : Operand) (f : FieldSpec)
  | cmp5 (a : Operand) (f : FieldSpec)
  | cmp6 (a : Operand) (f : FieldSpec)
  | cmpx (a : Operand) (f : FieldSpec)
  /-- The table's catch-all row: every pair of opcode and F that no other row maps (R81, R82). -/
  | nopUnmapped (a : Operand) (c f : Byte)
  deriving DecidableEq, Repr

/-! The spec writes a family over the six index registers with one name, LDi for LD1 to LD6; these
functions are those names. -/

/-- LDi (R152). -/
def Instr.ldi (i : IndexReg) (a : Operand) (f : FieldSpec) : Instr :=
  match i with
  | .i1 => .ld1 a f
  | .i2 => .ld2 a f
  | .i3 => .ld3 a f
  | .i4 => .ld4 a f
  | .i5 => .ld5 a f
  | .i6 => .ld6 a f

/-- LDiN (R155). -/
def Instr.ldin (i : IndexReg) (a : Operand) (f : FieldSpec) : Instr :=
  match i with
  | .i1 => .ld1n a f
  | .i2 => .ld2n a f
  | .i3 => .ld3n a f
  | .i4 => .ld4n a f
  | .i5 => .ld5n a f
  | .i6 => .ld6n a f

/-- STi (R158). -/
def Instr.sti (i : IndexReg) (a : Operand) (f : FieldSpec) : Instr :=
  match i with
  | .i1 => .st1 a f
  | .i2 => .st2 a f
  | .i3 => .st3 a f
  | .i4 => .st4 a f
  | .i5 => .st5 a f
  | .i6 => .st6 a f

/-- CMPi (R192). -/
def Instr.cmpi (i : IndexReg) (a : Operand) (f : FieldSpec) : Instr :=
  match i with
  | .i1 => .cmp1 a f
  | .i2 => .cmp2 a f
  | .i3 => .cmp3 a f
  | .i4 => .cmp4 a f
  | .i5 => .cmp5 a f
  | .i6 => .cmp6 a f

/-- ENTi (R172). -/
def Instr.enti (i : IndexReg) (a : Operand) : Instr :=
  match i with
  | .i1 => .ent1 a
  | .i2 => .ent2 a
  | .i3 => .ent3 a
  | .i4 => .ent4 a
  | .i5 => .ent5 a
  | .i6 => .ent6 a

/-- ENNi (R175). -/
def Instr.enni (i : IndexReg) (a : Operand) : Instr :=
  match i with
  | .i1 => .enn1 a
  | .i2 => .enn2 a
  | .i3 => .enn3 a
  | .i4 => .enn4 a
  | .i5 => .enn5 a
  | .i6 => .enn6 a

/-- INCi (R178). -/
def Instr.inci (i : IndexReg) (a : Operand) : Instr :=
  match i with
  | .i1 => .inc1 a
  | .i2 => .inc2 a
  | .i3 => .inc3 a
  | .i4 => .inc4 a
  | .i5 => .inc5 a
  | .i6 => .inc6 a

/-- DECi (R181). -/
def Instr.deci (i : IndexReg) (a : Operand) : Instr :=
  match i with
  | .i1 => .dec1 a
  | .i2 => .dec2 a
  | .i3 => .dec3 a
  | .i4 => .dec4 a
  | .i5 => .dec5 a
  | .i6 => .dec6 a

/-- JiN (R224). -/
def Instr.jin (i : IndexReg) (a : Operand) : Instr :=
  match i with
  | .i1 => .j1n a
  | .i2 => .j2n a
  | .i3 => .j3n a
  | .i4 => .j4n a
  | .i5 => .j5n a
  | .i6 => .j6n a

/-- JiZ (R225). -/
def Instr.jiz (i : IndexReg) (a : Operand) : Instr :=
  match i with
  | .i1 => .j1z a
  | .i2 => .j2z a
  | .i3 => .j3z a
  | .i4 => .j4z a
  | .i5 => .j5z a
  | .i6 => .j6z a

/-- JiP (R226). -/
def Instr.jip (i : IndexReg) (a : Operand) : Instr :=
  match i with
  | .i1 => .j1p a
  | .i2 => .j2p a
  | .i3 => .j3p a
  | .i4 => .j4p a
  | .i5 => .j5p a
  | .i6 => .j6p a

/-- JiNN (R227). -/
def Instr.jinn (i : IndexReg) (a : Operand) : Instr :=
  match i with
  | .i1 => .j1nn a
  | .i2 => .j2nn a
  | .i3 => .j3nn a
  | .i4 => .j4nn a
  | .i5 => .j5nn a
  | .i6 => .j6nn a

/-- JiNZ (R228). -/
def Instr.jinz (i : IndexReg) (a : Operand) : Instr :=
  match i with
  | .i1 => .j1nz a
  | .i2 => .j2nz a
  | .i3 => .j3nz a
  | .i4 => .j4nz a
  | .i5 => .j5nz a
  | .i6 => .j6nz a

/-- JiNP (R229). -/
def Instr.jinp (i : IndexReg) (a : Operand) : Instr :=
  match i with
  | .i1 => .j1np a
  | .i2 => .j2np a
  | .i3 => .j3np a
  | .i4 => .j4np a
  | .i5 => .j5np a
  | .i6 => .j6np a

/-- The operand part of an instruction word (30_encoding.md R84 binds it for every instruction). -/
def Instr.operand : Instr → Operand
  | .nop a _ | .nopUnmapped a _ _ => a
  | .add a _ | .sub a _ | .mul a _ | .div a _ | .lda a _ | .ld1 a _ | .ld2 a _ | .ld3 a _
  | .ld4 a _ | .ld5 a _ | .ld6 a _ | .ldx a _ | .ldan a _ | .ld1n a _ | .ld2n a _ | .ld3n a _
  | .ld4n a _ | .ld5n a _ | .ld6n a _ | .ldxn a _ | .sta a _ | .st1 a _ | .st2 a _ | .st3 a _
  | .st4 a _ | .st5 a _ | .st6 a _ | .stx a _ | .stj a _ | .stz a _ | .cmpa a _ | .cmp1 a _
  | .cmp2 a _ | .cmp3 a _ | .cmp4 a _ | .cmp5 a _ | .cmp6 a _ | .cmpx a _ => a
  | .hlt a | .sla a | .sra a | .slax a | .srax a | .slc a | .src a | .jmp a | .jsj a | .jov a
  | .jnov a | .jl a | .je a | .jg a | .jge a | .jne a | .jle a | .jan a | .jaz a | .jap a
  | .jann a | .janz a | .janp a | .j1n a | .j1z a | .j1p a | .j1nn a | .j1nz a | .j1np a
  | .j2n a | .j2z a | .j2p a | .j2nn a | .j2nz a | .j2np a | .j3n a | .j3z a | .j3p a | .j3nn a
  | .j3nz a | .j3np a | .j4n a | .j4z a | .j4p a | .j4nn a | .j4nz a | .j4np a | .j5n a
  | .j5z a | .j5p a | .j5nn a | .j5nz a | .j5np a | .j6n a | .j6z a | .j6p a | .j6nn a
  | .j6nz a | .j6np a | .jxn a | .jxz a | .jxp a | .jxnn a | .jxnz a | .jxnp a | .inca a
  | .deca a | .enta a | .enna a | .inc1 a | .dec1 a | .ent1 a | .enn1 a | .inc2 a | .dec2 a
  | .ent2 a | .enn2 a | .inc3 a | .dec3 a | .ent3 a | .enn3 a | .inc4 a | .dec4 a | .ent4 a
  | .enn4 a | .inc5 a | .dec5 a | .ent5 a | .enn5 a | .inc6 a | .dec6 a | .ent6 a | .enn6 a
  | .incx a | .decx a | .entx a | .ennx a => a

end Sys2Proof
end

