-- ==== Sys2Proof/WellFormed.lean ====
section
/-! DEFINITION. Which instruction terms stand for instruction words: a FIELD-class instruction has a
valid field specification (30_encoding.md R79), and a catch-all no-operation has a pair of opcode
and F that no row of the opcode map selects (R81, R82). Every other term is well formed. -/

namespace Sys2Proof

/-- R79: `L <= 5`, `R <= 5` and `L <= R`. -/
def FieldSpec.valid (f : FieldSpec) : Bool :=
  decide (f.left ≤ f.right) && decide (f.right ≤ 5)

/-- The pairs (C, F) of the opcode map that select no instruction, opcode 0 apart (R80 to R82):
NONE-class opcodes with any F, and the F bytes beyond the sub-codes of a SUB-class opcode. The pairs
F = 3 of opcodes 48 to 55 are not among them: they are ENN, which is a no-operation when HAS_ENN is
false (R173; notes/assumptions/9.md). -/
def unmappedPair (c f : Byte) : Bool :=
  let c := c.toNat
  let f := f.toNat
  decide (c = 7) || decide (34 ≤ c ∧ c ≤ 38) || decide (64 ≤ c)
    || decide (c = 5 ∧ f ≠ 2)
    || decide (c = 6 ∧ 6 ≤ f)
    || decide (c = 39 ∧ 10 ≤ f)
    || decide (40 ≤ c ∧ c ≤ 47 ∧ 6 ≤ f)
    || decide (48 ≤ c ∧ c ≤ 55 ∧ 4 ≤ f)

/-- The well-formed instructions: the ones the decoder can produce. -/
def Instr.wellFormed : Instr → Bool
  | .nop _ _ => true
  | .add _ f | .sub _ f | .mul _ f | .div _ f | .lda _ f | .ld1 _ f | .ld2 _ f | .ld3 _ f
  | .ld4 _ f | .ld5 _ f | .ld6 _ f | .ldx _ f | .ldan _ f | .ld1n _ f | .ld2n _ f | .ld3n _ f
  | .ld4n _ f | .ld5n _ f | .ld6n _ f | .ldxn _ f | .sta _ f | .st1 _ f | .st2 _ f | .st3 _ f
  | .st4 _ f | .st5 _ f | .st6 _ f | .stx _ f | .stj _ f | .stz _ f | .cmpa _ f | .cmp1 _ f
  | .cmp2 _ f | .cmp3 _ f | .cmp4 _ f | .cmp5 _ f | .cmp6 _ f | .cmpx _ f => f.valid
  | .hlt _ | .sla _ | .sra _ | .slax _ | .srax _ | .slc _ | .src _ | .jmp _ | .jsj _ | .jov _
  | .jnov _ | .jl _ | .je _ | .jg _ | .jge _ | .jne _ | .jle _ | .jan _ | .jaz _ | .jap _
  | .jann _ | .janz _ | .janp _ | .j1n _ | .j1z _ | .j1p _ | .j1nn _ | .j1nz _ | .j1np _
  | .j2n _ | .j2z _ | .j2p _ | .j2nn _ | .j2nz _ | .j2np _ | .j3n _ | .j3z _ | .j3p _ | .j3nn _
  | .j3nz _ | .j3np _ | .j4n _ | .j4z _ | .j4p _ | .j4nn _ | .j4nz _ | .j4np _ | .j5n _
  | .j5z _ | .j5p _ | .j5nn _ | .j5nz _ | .j5np _ | .j6n _ | .j6z _ | .j6p _ | .j6nn _
  | .j6nz _ | .j6np _ | .jxn _ | .jxz _ | .jxp _ | .jxnn _ | .jxnz _ | .jxnp _ | .inca _
  | .deca _ | .enta _ | .enna _ | .inc1 _ | .dec1 _ | .ent1 _ | .enn1 _ | .inc2 _ | .dec2 _
  | .ent2 _ | .enn2 _ | .inc3 _ | .dec3 _ | .ent3 _ | .enn3 _ | .inc4 _ | .dec4 _ | .ent4 _
  | .enn4 _ | .inc5 _ | .dec5 _ | .ent5 _ | .enn5 _ | .inc6 _ | .dec6 _ | .ent6 _ | .enn6 _
  | .incx _ | .decx _ | .entx _ | .ennx _ => true
  | .nopUnmapped _ c f => unmappedPair c f

end Sys2Proof
end

