-- ==== Sys2Proof/Decode.lean ====
section
/-! DEFINITION. Decoding an instruction word (30_encoding.md R70 to R83), total on every word and
rejecting by name, and after it the encoder, written from the same table (30_encoding.md section 4,
spec/opcode_table.json). -/

namespace Sys2Proof

/-- The two ways decoding refuses a word (R87). `invalidIndex` is raised by index resolution with the
selector I (R74), `fieldSpecOutOfRange` by the field check with F (R79). Both are safe: the machine
takes the fault the spec names. -/
inductive DecodeFault
  | invalidIndex (i : Nat)
  | fieldSpecOutOfRange (f : Nat)
  deriving DecidableEq, Repr

/-- Index resolution (R73, R74): 0 is no index, 1 to 6 an index register, 7 to 255 a fault. -/
def indexOf (i : Byte) : Except DecodeFault (Option IndexReg) :=
  match i.toNat with
  | 0 => .ok none
  | 1 => .ok (some .i1)
  | 2 => .ok (some .i2)
  | 3 => .ok (some .i3)
  | 4 => .ok (some .i4)
  | 5 => .ok (some .i5)
  | 6 => .ok (some .i6)
  | n => .error (.invalidIndex n)

/-- R77: `L = F div 8`, `R = F mod 8`. -/
def splitField (f : Byte) : FieldSpec :=
  { left := f.toNat / 8, right := f.toNat % 8 }

/-- A FIELD-class instruction (R80): F must be a valid field specification (R79). -/
def fieldInstr (f : Byte) (k : FieldSpec → Instr) : Except DecodeFault Instr :=
  if (splitField f).valid then .ok (k (splitField f)) else .error (.fieldSpecOutOfRange f.toNat)

/-- A SUB-class instruction (R80): F is the sub-code that selects one of `subs`, listed from sub-code 0
on; any other F is the no-operation (R81). -/
def subInstr (a : Operand) (f c : Byte) (subs : List Instr) : Except DecodeFault Instr :=
  match subs[f.toNat]? with
  | some i => .ok i
  | none => .ok (.nopUnmapped a c f)

/-- R72: the address field `AA = b[0]·256 + b[1]`. -/
def addressField (w : Word) : BitVec 16 :=
  w.b0 ++ w.b1

/-- Opcodes 0 to 7: no-operation, arithmetic, halt, shifts; 7 (MOVE) is not in this machine (30_encoding.md section 4). -/
def dispatchControl (a : Operand) (f c : Byte) : Except DecodeFault Instr :=
  match c.toNat with
  | 0 => .ok (.nop a f)
  | 1 => fieldInstr f (.add a)
  | 2 => fieldInstr f (.sub a)
  | 3 => fieldInstr f (.mul a)
  | 4 => fieldInstr f (.div a)
  | 5 => if f.toNat = 2 then .ok (.hlt a) else .ok (.nopUnmapped a c f)
  | 6 => subInstr a f c [.sla a, .sra a, .slax a, .srax a, .slc a, .src a]
  | _ => .ok (.nopUnmapped a c f)

/-- Opcodes 8 to 15: loads (30_encoding.md section 4). -/
def dispatchLoads (a : Operand) (f c : Byte) : Except DecodeFault Instr :=
  match c.toNat with
  | 8 => fieldInstr f (.lda a)
  | 9 => fieldInstr f (.ld1 a)
  | 10 => fieldInstr f (.ld2 a)
  | 11 => fieldInstr f (.ld3 a)
  | 12 => fieldInstr f (.ld4 a)
  | 13 => fieldInstr f (.ld5 a)
  | 14 => fieldInstr f (.ld6 a)
  | 15 => fieldInstr f (.ldx a)
  | _ => .ok (.nopUnmapped a c f)

/-- Opcodes 16 to 23: negative loads (30_encoding.md section 4). -/
def dispatchNegativeLoads (a : Operand) (f c : Byte) : Except DecodeFault Instr :=
  match c.toNat with
  | 16 => fieldInstr f (.ldan a)
  | 17 => fieldInstr f (.ld1n a)
  | 18 => fieldInstr f (.ld2n a)
  | 19 => fieldInstr f (.ld3n a)
  | 20 => fieldInstr f (.ld4n a)
  | 21 => fieldInstr f (.ld5n a)
  | 22 => fieldInstr f (.ld6n a)
  | 23 => fieldInstr f (.ldxn a)
  | _ => .ok (.nopUnmapped a c f)

/-- Opcodes 24 to 33: stores (30_encoding.md section 4). -/
def dispatchStores (a : Operand) (f c : Byte) : Except DecodeFault Instr :=
  match c.toNat with
  | 24 => fieldInstr f (.sta a)
  | 25 => fieldInstr f (.st1 a)
  | 26 => fieldInstr f (.st2 a)
  | 27 => fieldInstr f (.st3 a)
  | 28 => fieldInstr f (.st4 a)
  | 29 => fieldInstr f (.st5 a)
  | 30 => fieldInstr f (.st6 a)
  | 31 => fieldInstr f (.stx a)
  | 32 => fieldInstr f (.stj a)
  | 33 => fieldInstr f (.stz a)
  | _ => .ok (.nopUnmapped a c f)

/-- Opcodes 39 to 47: jumps (30_encoding.md section 4). -/
def dispatchJumps (a : Operand) (f c : Byte) : Except DecodeFault Instr :=
  match c.toNat with
  | 39 => subInstr a f c
      [.jmp a, .jsj a, .jov a, .jnov a, .jl a, .je a, .jg a, .jge a, .jne a, .jle a]
  | 40 => subInstr a f c [.jan a, .jaz a, .jap a, .jann a, .janz a, .janp a]
  | 41 => subInstr a f c [.j1n a, .j1z a, .j1p a, .j1nn a, .j1nz a, .j1np a]
  | 42 => subInstr a f c [.j2n a, .j2z a, .j2p a, .j2nn a, .j2nz a, .j2np a]
  | 43 => subInstr a f c [.j3n a, .j3z a, .j3p a, .j3nn a, .j3nz a, .j3np a]
  | 44 => subInstr a f c [.j4n a, .j4z a, .j4p a, .j4nn a, .j4nz a, .j4np a]
  | 45 => subInstr a f c [.j5n a, .j5z a, .j5p a, .j5nn a, .j5nz a, .j5np a]
  | 46 => subInstr a f c [.j6n a, .j6z a, .j6p a, .j6nn a, .j6nz a, .j6np a]
  | 47 => subInstr a f c [.jxn a, .jxz a, .jxp a, .jxnn a, .jxnz a, .jxnp a]
  | _ => .ok (.nopUnmapped a c f)

/-- Opcodes 48 to 55: address transfer (30_encoding.md section 4). -/
def dispatchTransfers (a : Operand) (f c : Byte) : Except DecodeFault Instr :=
  match c.toNat with
  | 48 => subInstr a f c [.inca a, .deca a, .enta a, .enna a]
  | 49 => subInstr a f c [.inc1 a, .dec1 a, .ent1 a, .enn1 a]
  | 50 => subInstr a f c [.inc2 a, .dec2 a, .ent2 a, .enn2 a]
  | 51 => subInstr a f c [.inc3 a, .dec3 a, .ent3 a, .enn3 a]
  | 52 => subInstr a f c [.inc4 a, .dec4 a, .ent4 a, .enn4 a]
  | 53 => subInstr a f c [.inc5 a, .dec5 a, .ent5 a, .enn5 a]
  | 54 => subInstr a f c [.inc6 a, .dec6 a, .ent6 a, .enn6 a]
  | 55 => subInstr a f c [.incx a, .decx a, .entx a, .ennx a]
  | _ => .ok (.nopUnmapped a c f)

/-- Opcodes 56 to 63: compares (30_encoding.md section 4). -/
def dispatchCompares (a : Operand) (f c : Byte) : Except DecodeFault Instr :=
  match c.toNat with
  | 56 => fieldInstr f (.cmpa a)
  | 57 => fieldInstr f (.cmp1 a)
  | 58 => fieldInstr f (.cmp2 a)
  | 59 => fieldInstr f (.cmp3 a)
  | 60 => fieldInstr f (.cmp4 a)
  | 61 => fieldInstr f (.cmp5 a)
  | 62 => fieldInstr f (.cmp6 a)
  | 63 => fieldInstr f (.cmpx a)
  | _ => .ok (.nopUnmapped a c f)

/-- Dispatch on the opcode C and, for the SUB class, on F (R80 to R82). Opcodes 34 to 38 (JBUS, IOC, IN,
OUT, JRED) are not in this machine, nor is any from 64 on. -/
def dispatch (a : Operand) (f c : Byte) : Except DecodeFault Instr :=
  if c.toNat ≤ 7 then dispatchControl a f c
  else if c.toNat ≤ 15 then dispatchLoads a f c
  else if c.toNat ≤ 23 then dispatchNegativeLoads a f c
  else if c.toNat ≤ 33 then dispatchStores a f c
  else if c.toNat ≤ 38 then .ok (.nopUnmapped a c f)
  else if c.toNat ≤ 47 then dispatchJumps a f c
  else if c.toNat ≤ 55 then dispatchTransfers a f c
  else if c.toNat ≤ 63 then dispatchCompares a f c
  else .ok (.nopUnmapped a c f)

/-- The decoder (R83): extract the fields, resolve the index, dispatch, check the field. -/
def decode (w : Word) : Except DecodeFault Instr :=
  match indexOf w.b2 with
  | .error e => .error e
  | .ok i => dispatch { sign := w.sign, addr := addressField w, index := i } w.b3 w.b4

/-- The index byte of a selector (R73). -/
def indexByte : Option IndexReg → Byte
  | none => 0
  | some .i1 => 1
  | some .i2 => 2
  | some .i3 => 3
  | some .i4 => 4
  | some .i5 => 5
  | some .i6 => 6

/-- The F byte of a field specification: `F = 8·L + R` (R77). -/
def fieldByte (f : FieldSpec) : Byte :=
  BitVec.ofNat 8 (8 * f.left + f.right)

/-- The instruction word with the fields S, AA, I of `a`, and the bytes F and C (R70). -/
def instrWord (a : Operand) (f c : Byte) : Word :=
  { sign := a.sign
    b0 := a.addr.extractLsb' 8 8
    b1 := a.addr.extractLsb' 0 8
    b2 := indexByte a.index
    b3 := f
    b4 := c }

/-- The word of an instruction, a row of the opcode map a line (30_encoding.md section 4). -/
def encode : Instr → Word
  | .nop a f => instrWord a f 0
  | .add a f => instrWord a (fieldByte f) 1
  | .sub a f => instrWord a (fieldByte f) 2
  | .mul a f => instrWord a (fieldByte f) 3
  | .div a f => instrWord a (fieldByte f) 4
  | .hlt a => instrWord a 2 5
  | .sla a => instrWord a 0 6
  | .sra a => instrWord a 1 6
  | .slax a => instrWord a 2 6
  | .srax a => instrWord a 3 6
  | .slc a => instrWord a 4 6
  | .src a => instrWord a 5 6
  | .lda a f => instrWord a (fieldByte f) 8
  | .ld1 a f => instrWord a (fieldByte f) 9
  | .ld2 a f => instrWord a (fieldByte f) 10
  | .ld3 a f => instrWord a (fieldByte f) 11
  | .ld4 a f => instrWord a (fieldByte f) 12
  | .ld5 a f => instrWord a (fieldByte f) 13
  | .ld6 a f => instrWord a (fieldByte f) 14
  | .ldx a f => instrWord a (fieldByte f) 15
  | .ldan a f => instrWord a (fieldByte f) 16
  | .ld1n a f => instrWord a (fieldByte f) 17
  | .ld2n a f => instrWord a (fieldByte f) 18
  | .ld3n a f => instrWord a (fieldByte f) 19
  | .ld4n a f => instrWord a (fieldByte f) 20
  | .ld5n a f => instrWord a (fieldByte f) 21
  | .ld6n a f => instrWord a (fieldByte f) 22
  | .ldxn a f => instrWord a (fieldByte f) 23
  | .sta a f => instrWord a (fieldByte f) 24
  | .st1 a f => instrWord a (fieldByte f) 25
  | .st2 a f => instrWord a (fieldByte f) 26
  | .st3 a f => instrWord a (fieldByte f) 27
  | .st4 a f => instrWord a (fieldByte f) 28
  | .st5 a f => instrWord a (fieldByte f) 29
  | .st6 a f => instrWord a (fieldByte f) 30
  | .stx a f => instrWord a (fieldByte f) 31
  | .stj a f => instrWord a (fieldByte f) 32
  | .stz a f => instrWord a (fieldByte f) 33
  | .jmp a => instrWord a 0 39
  | .jsj a => instrWord a 1 39
  | .jov a => instrWord a 2 39
  | .jnov a => instrWord a 3 39
  | .jl a => instrWord a 4 39
  | .je a => instrWord a 5 39
  | .jg a => instrWord a 6 39
  | .jge a => instrWord a 7 39
  | .jne a => instrWord a 8 39
  | .jle a => instrWord a 9 39
  | .jan a => instrWord a 0 40
  | .jaz a => instrWord a 1 40
  | .jap a => instrWord a 2 40
  | .jann a => instrWord a 3 40
  | .janz a => instrWord a 4 40
  | .janp a => instrWord a 5 40
  | .j1n a => instrWord a 0 41
  | .j1z a => instrWord a 1 41
  | .j1p a => instrWord a 2 41
  | .j1nn a => instrWord a 3 41
  | .j1nz a => instrWord a 4 41
  | .j1np a => instrWord a 5 41
  | .j2n a => instrWord a 0 42
  | .j2z a => instrWord a 1 42
  | .j2p a => instrWord a 2 42
  | .j2nn a => instrWord a 3 42
  | .j2nz a => instrWord a 4 42
  | .j2np a => instrWord a 5 42
  | .j3n a => instrWord a 0 43
  | .j3z a => instrWord a 1 43
  | .j3p a => instrWord a 2 43
  | .j3nn a => instrWord a 3 43
  | .j3nz a => instrWord a 4 43
  | .j3np a => instrWord a 5 43
  | .j4n a => instrWord a 0 44
  | .j4z a => instrWord a 1 44
  | .j4p a => instrWord a 2 44
  | .j4nn a => instrWord a 3 44
  | .j4nz a => instrWord a 4 44
  | .j4np a => instrWord a 5 44
  | .j5n a => instrWord a 0 45
  | .j5z a => instrWord a 1 45
  | .j5p a => instrWord a 2 45
  | .j5nn a => instrWord a 3 45
  | .j5nz a => instrWord a 4 45
  | .j5np a => instrWord a 5 45
  | .j6n a => instrWord a 0 46
  | .j6z a => instrWord a 1 46
  | .j6p a => instrWord a 2 46
  | .j6nn a => instrWord a 3 46
  | .j6nz a => instrWord a 4 46
  | .j6np a => instrWord a 5 46
  | .jxn a => instrWord a 0 47
  | .jxz a => instrWord a 1 47
  | .jxp a => instrWord a 2 47
  | .jxnn a => instrWord a 3 47
  | .jxnz a => instrWord a 4 47
  | .jxnp a => instrWord a 5 47
  | .inca a => instrWord a 0 48
  | .deca a => instrWord a 1 48
  | .enta a => instrWord a 2 48
  | .enna a => instrWord a 3 48
  | .inc1 a => instrWord a 0 49
  | .dec1 a => instrWord a 1 49
  | .ent1 a => instrWord a 2 49
  | .enn1 a => instrWord a 3 49
  | .inc2 a => instrWord a 0 50
  | .dec2 a => instrWord a 1 50
  | .ent2 a => instrWord a 2 50
  | .enn2 a => instrWord a 3 50
  | .inc3 a => instrWord a 0 51
  | .dec3 a => instrWord a 1 51
  | .ent3 a => instrWord a 2 51
  | .enn3 a => instrWord a 3 51
  | .inc4 a => instrWord a 0 52
  | .dec4 a => instrWord a 1 52
  | .ent4 a => instrWord a 2 52
  | .enn4 a => instrWord a 3 52
  | .inc5 a => instrWord a 0 53
  | .dec5 a => instrWord a 1 53
  | .ent5 a => instrWord a 2 53
  | .enn5 a => instrWord a 3 53
  | .inc6 a => instrWord a 0 54
  | .dec6 a => instrWord a 1 54
  | .ent6 a => instrWord a 2 54
  | .enn6 a => instrWord a 3 54
  | .incx a => instrWord a 0 55
  | .decx a => instrWord a 1 55
  | .entx a => instrWord a 2 55
  | .ennx a => instrWord a 3 55
  | .cmpa a f => instrWord a (fieldByte f) 56
  | .cmp1 a f => instrWord a (fieldByte f) 57
  | .cmp2 a f => instrWord a (fieldByte f) 58
  | .cmp3 a f => instrWord a (fieldByte f) 59
  | .cmp4 a f => instrWord a (fieldByte f) 60
  | .cmp5 a f => instrWord a (fieldByte f) 61
  | .cmp6 a f => instrWord a (fieldByte f) 62
  | .cmpx a f => instrWord a (fieldByte f) 63
  | .nopUnmapped a c f => instrWord a f c

/-- The word a 41-bit image stands for (R71): bit 40 is the sign, 1 meaning `-`, and the five bytes
follow from bit 39 down to bit 0. Bits above 40 stand for nothing. -/
def wordOfImage (n : Nat) : Word :=
  { sign := if n / 2 ^ 40 % 2 = 1 then .minus else .plus
    b0 := BitVec.ofNat 8 (n / 2 ^ 32)
    b1 := BitVec.ofNat 8 (n / 2 ^ 24)
    b2 := BitVec.ofNat 8 (n / 2 ^ 16)
    b3 := BitVec.ofNat 8 (n / 2 ^ 8)
    b4 := BitVec.ofNat 8 n }

/-- The word of a row given as `nbits` bits `w` of the opcode table's image, the bits above `nbits`
being 0 (R71; notes/assumptions/13.md). -/
def tableWord (nbits w : Nat) : Word :=
  wordOfImage (w % 2 ^ nbits)

/-- What the decoder reads from the opcode-table image `w`; `none` where it refuses, or where the
image has a bit above bit 40 and so is no word. -/
def decodeTableWord (nbits w : Nat) : Option Instr :=
  if w % 2 ^ nbits < 2 ^ 41 then
    match decode (tableWord nbits w) with
    | .ok i => some i
    | .error _ => none
  else none

end Sys2Proof
end

