-- ==== Sys2Proof/Config.lean ====
section
/-! DEFINITION. What is fixed for the machine: the sizes the spec gives, and its three open
parameters (00_scope.md R6) as constants without a body, so that no proof can see their values. -/

namespace Sys2Proof

/-- Memory holds 4000 words, addresses 0 to 3999 (00_scope.md R3). -/
abbrev Config.memWords : Nat := 4000

/-- The halt sentinel, one past the last cell (00_scope.md R3). -/
abbrev Config.halt : Nat := 4000

/-- The peripheral status area holds 20 bytes (00_scope.md R5). -/
abbrev Config.periphBytes : Nat := 20

/-- `DEFAULT_SIGN`: the sign of a word the multiplier or divider builds fresh without applying a sign
(R6; notes/assumptions/7.md). -/
opaque Config.defaultSign : Sign

/-- `ZERO_RESULT_SIGN`: the sign written when a signed sum or product is exactly 0
(R6; notes/assumptions/8.md). -/
opaque Config.zeroResultSign : Sign

/-- `HAS_ENN`: whether sub-code 3 of opcodes 48 to 55 is ENN; if not, it is the no-operation
(R6; notes/assumptions/9.md). -/
opaque Config.hasEnn : Bool

end Sys2Proof
end

