-- ==== Sys2Proof/Machine/State.lean ====
section
/-! DEFINITION. The state of the CORE (10_state.md): nine registers, two flags, the program counter,
memory, the peripheral area and the run status, all plain data. -/

namespace Sys2Proof.Machine

/-- The nine register names (10_state.md R23). -/
inductive Reg
  | A | X | I1 | I2 | I3 | I4 | I5 | I6 | J
  deriving DecidableEq, Repr

/-- The values of the comparison flag (10_state.md R29). -/
inductive Cmp
  | less | equal | greater
  deriving DecidableEq, Repr

/-- The fault taxonomy (60_exceptions.md R270), in the order of the codes 1 to 7. -/
inductive FaultCode
  /-- Code 1: the index selector is 7 to 255. -/
  | invalidIndex
  /-- Code 2: an index-register load whose window touches none of the sign, byte 3 and byte 4. -/
  | invalidFieldSpec
  /-- Code 3: add, multiply or divide with a sign-only window. -/
  | arithmeticDomainFault
  /-- Code 4: a resolved address above 3999 on an instruction that addresses memory. -/
  | addressOutOfRange
  /-- Code 5: a FIELD-class opcode with an invalid field specification. -/
  | fieldSpecOutOfRange
  /-- Code 6: a step begins with pc above 3999. -/
  | fetchOutOfRange
  /-- Code 7: a divide whose quotient magnitude is 256^5 or more. -/
  | quotientOverflow
  deriving DecidableEq, Repr

/-- `raise Fault(code, info)` before it is recorded (00_scope.md section 5.3). -/
structure Raised where
  code : FaultCode
  info : Nat
  deriving DecidableEq, Repr

/-- The fault record (60_exceptions.md R272): the address of the faulting instruction, the fetched
word or none, and the code's info. -/
structure FaultRecord where
  pc   : Nat
  word : Option Word
  info : Nat
  deriving DecidableEq, Repr

/-- The run status (10_state.md R34). `halted` and `faulted` are terminal (R257, R273). -/
inductive Status
  | running
  | halted
  | faulted (code : FaultCode) (record : FaultRecord)
  deriving DecidableEq, Repr

/-- Memory as pairs of a word address and the word there (notes/assumptions/1.md). Its canonical
form is `Memory.wf`, in Machine/Ops.lean. -/
abbrev Memory := List (Nat × Word)

/-- Everything the spec gives the machine (10_state.md R23 to R35). -/
structure State where
  /-- The accumulator (R24). -/
  rA : Word
  /-- The extension (R25). -/
  rX : Word
  /-- The index registers (R26), full words. -/
  rI1 : Word
  rI2 : Word
  rI3 : Word
  rI4 : Word
  rI5 : Word
  rI6 : Word
  /-- The jump-save register (R27). -/
  rJ : Word
  /-- The overflow flag OV (R28). -/
  ov : Bool
  /-- The comparison flag CMP (R29). -/
  cmp : Cmp
  /-- The program counter (R30), a natural number. -/
  pc : Nat
  /-- Main memory (R31), code and data (R32). -/
  mem : Memory
  /-- The peripheral status area (R33), inert. -/
  periph : Vector Byte Config.periphBytes
  /-- The run status (R34). -/
  status : Status
  deriving DecidableEq, Repr

/-- The state right after launch. The status is the spec's (R303); every other value is one the spec
leaves to the loader or to a draw (70_reset_and_hazards.md R300 to R304), here the value R301 and R302
suggest, `pc0 = 0`, an image of `+0` words and a zero peripheral area (DESIGN CHOICE, unsafe:
notes/assumptions/2.md to 6.md). `State.launch` in Machine/Ops.lean takes them all as arguments. -/
def State.reset : State where
  rA := Word.zero
  rX := Word.zero
  rI1 := Word.zero
  rI2 := Word.zero
  rI3 := Word.zero
  rI4 := Word.zero
  rI5 := Word.zero
  rI6 := Word.zero
  rJ := Word.zero
  ov := false
  cmp := .equal
  pc := 0
  mem := []
  periph := Vector.replicate Config.periphBytes 0
  status := .running

/-- Why a step has no answer. The faults of R270 are NOT here: a step takes them and answers the
next state R272 describes. These are the two terminal statuses, from which no step is defined
(47_control_and_run_loop.md R257, 60_exceptions.md R273; notes/assumptions/10.md). -/
inductive Fault
  /-- Raised by `step` when the status is HALTED. Safe: the machine has stopped. -/
  | stepAfterHalt
  /-- Raised by `step` when the status is FAULTED. Safe: the machine has stopped. -/
  | stepAfterFault (code : FaultCode) (record : FaultRecord)
  deriving DecidableEq, Repr

/-- Why an instruction has no meaning. No arm of `exec` raises it any more. -/
inductive Refusal
  /-- Raised by an arm of `exec` whose instruction has no meaning yet. Safe: nothing is claimed. -/
  | notModelled (mnemonic : String)
  deriving DecidableEq, Repr

end Sys2Proof.Machine
end

