-- ==== Sys2Proof/Machine/Ops.lean ====
section
/-! DEFINITION. The named operations over memory, registers, the run status and the program counter,
and the one operation that takes a fault. -/

namespace Sys2Proof.Machine

/-! ### Words and numbers -/

/-- The bytes `l .. l+n-1` of `w` read as one big-endian number (00_scope.md `w[l..r]`, 20_memory.md
R53). -/
def windowMag (w : Word) (l : Nat) : Nat → Nat
  | 0 => 0
  | n + 1 => windowMag w l n * 256 + (w.byte (l + n)).toNat

/-- `mag(w)` (10_state.md R21). -/
def mag (w : Word) : Nat :=
  windowMag w 0 5

/-- `val(w)` (10_state.md R21). -/
def val (w : Word) : Int :=
  match w.sign with
  | .plus => mag w
  | .minus => -(mag w : Int)

/-- `mkword(s, n)` (10_state.md R22): `b[k] = (n div 256^(4-k)) mod 256`. -/
def mkword (s : Sign) (n : Nat) : Word :=
  Word.ofBytes s fun k => BitVec.ofNat 8 (n / 256 ^ (4 - k))

/-- `negate(w)` flips the sign and leaves the bytes (40_datapath.md R101). -/
def negate (w : Word) : Word :=
  { w with sign := w.sign.flip }

/-! ### Memory -/

/-- What an unlisted address reads as: the word `+0` (DESIGN CHOICE: notes/assumptions/2.md). -/
def Memory.unlisted : Word := Word.zero

/-- Read the word at `a` (20_memory.md R51). The caller checks the range (R52). -/
def Memory.read : Memory → Nat → Word
  | [], _ => Memory.unlisted
  | (b, v) :: t, a => if b = a then v else Memory.read t a

/-- Put `(a, w)` in front of `t`, or nothing when `w` is what an unlisted address reads as. -/
def Memory.cell (a : Nat) (w : Word) (t : Memory) : Memory :=
  if w = Memory.unlisted then t else (a, w) :: t

/-- Write the word `w` at `a` (20_memory.md R51), keeping the canonical form. -/
def Memory.write : Memory → Nat → Word → Memory
  | [], a, w => Memory.cell a w []
  | (b, v) :: t, a, w =>
    if a < b then Memory.cell a w ((b, v) :: t)
    else if a = b then Memory.cell a w t
    else (b, v) :: Memory.write t a w

/-- The canonical form from address `lo` on: addresses strictly rising, all in memory, and no entry
equal to what an unlisted address reads as. -/
def Memory.wfFrom : Nat → Memory → Bool
  | _, [] => true
  | lo, (a, w) :: t =>
    decide (lo ≤ a) && decide (a < Config.memWords) && decide (w ≠ Memory.unlisted)
      && Memory.wfFrom (a + 1) t

/-- The canonical form of memory (notes/assumptions/1.md). -/
def Memory.wf (m : Memory) : Bool :=
  Memory.wfFrom 0 m

/-- The memory whose words from address `a` on are the list's. -/
def Memory.ofImageFrom : Nat → List Word → Memory
  | _, [] => []
  | a, w :: ws => Memory.cell a w (Memory.ofImageFrom (a + 1) ws)

/-- The memory of the loader's image (70_reset_and_hazards.md R300). -/
def Memory.ofImage (image : List Word) : Memory :=
  Memory.ofImageFrom 0 image

/-! ### Registers and flags -/

/-- The register an index selector names (30_encoding.md R73). -/
def indexReg : IndexReg → Reg
  | .i1 => .I1
  | .i2 => .I2
  | .i3 => .I3
  | .i4 => .I4
  | .i5 => .I5
  | .i6 => .I6

/-- `x[r]` (00_scope.md section 5.3). No register is hard-wired (10_state.md R23). -/
def State.reg (s : State) : Reg → Word
  | .A => s.rA
  | .X => s.rX
  | .I1 => s.rI1
  | .I2 => s.rI2
  | .I3 => s.rI3
  | .I4 => s.rI4
  | .I5 => s.rI5
  | .I6 => s.rI6
  | .J => s.rJ

/-- `x[r] <- w`. -/
def State.setReg (s : State) (r : Reg) (w : Word) : State :=
  match r with
  | .A => { s with rA := w }
  | .X => { s with rX := w }
  | .I1 => { s with rI1 := w }
  | .I2 => { s with rI2 := w }
  | .I3 => { s with rI3 := w }
  | .I4 => { s with rI4 := w }
  | .I5 => { s with rI5 := w }
  | .I6 => { s with rI6 := w }
  | .J => { s with rJ := w }

/-- `OV <- v`. -/
def State.setOv (s : State) (v : Bool) : State :=
  { s with ov := v }

/-- `CMP <- c`. -/
def State.setCmp (s : State) (c : Cmp) : State :=
  { s with cmp := c }

/-- `pc <- target`. -/
def State.setPc (s : State) (target : Nat) : State :=
  { s with pc := target }

/-- `MemWrite(a, 1, w)` (20_memory.md R51). -/
def State.writeWord (s : State) (a : Nat) (w : Word) : State :=
  { s with mem := s.mem.write a w }

/-! ### Faults -/

/-- The word a step fetches, none when the pc is outside memory (47_control_and_run_loop.md R253). -/
def State.fetchedWord (s : State) : Option Word :=
  if s.pc < Config.memWords then some (s.mem.read s.pc) else none

/-- TAKING A FAULT (60_exceptions.md R272, R281): the state is the state before the step, with the
status changed to FAULTED(code, record). No register, flag, memory word or pc changes, and there is
no vector or handler (R282). -/
def State.takeFault (s : State) (e : Raised) : State :=
  { s with status := .faulted e.code { pc := s.pc, word := s.fetchedWord, info := e.info } }

/-- How an instruction ends: with the state it built, or with the fault it raised, taken from the
state before it (R272). There is no return from a fault (R284). -/
def State.conclude (s : State) : Except Raised State → Host.Outcome State Fault Refusal
  | .ok t => .next t
  | .error e => .next (s.takeFault e)

/-- The numeric code of a fault (60_exceptions.md R270). -/
def FaultCode.number : FaultCode → Nat
  | .invalidIndex => 1
  | .invalidFieldSpec => 2
  | .arithmeticDomainFault => 3
  | .addressOutOfRange => 4
  | .fieldSpecOutOfRange => 5
  | .fetchOutOfRange => 6
  | .quotientOverflow => 7

/-- What the decoder's refusals raise (60_exceptions.md R270, codes 1 and 5). -/
def raisedByDecode : DecodeFault → Raised
  | .invalidIndex i => { code := .invalidIndex, info := i }
  | .fieldSpecOutOfRange f => { code := .fieldSpecOutOfRange, info := f }

/-- `MemRead(m, 1)` behind the range check of 20_memory.md R52. -/
def State.loadWord (s : State) (m : Nat) : Except Raised Word :=
  if m < Config.memWords then .ok (s.mem.read m)
  else .error { code := .addressOutOfRange, info := m }

/-- An instruction that addresses memory: check `m`, read the word there, and go on with it (R52). -/
def State.withMemoryWord (s : State) (m : Nat) (k : Word → Except Raised State) :
    Host.Outcome State Fault Refusal :=
  match s.loadWord m with
  | .error e => .next (s.takeFault e)
  | .ok w => s.conclude (k w)

/-! ### The program counter and the run status -/

/-- A taken jump (45_jump.md R200): save `pc + 1` in rJ if the jump saves, then go to `m`. -/
def State.take (s : State) (m : Nat) (save : Bool) : State :=
  if save then (s.setReg .J (mkword .plus (s.pc + 1))).setPc m else s.setPc m

/-- A jump: taken if the condition holds, else nothing (R200). -/
def State.jumpIf (s : State) (taken : Bool) (m : Nat) (save : Bool) : State :=
  if taken then s.take m save else s

/-- After execute (47_control_and_run_loop.md R252, R254, R255): a pc of 4000 halts, any other is
incremented. An instruction that faulted is left as it is (60_exceptions.md R281). -/
def State.advance (t : State) : State :=
  match t.status with
  | .running =>
    if t.pc = Config.halt then { t with status := .halted } else { t with pc := t.pc + 1 }
  | .halted => t
  | .faulted _ _ => t

/-! ### Launch -/

/-- Construction of a CORE (70_reset_and_hazards.md R300 to R304): the loader's image, `pc0` and
peripheral area, and the draws for the registers and the flags. -/
def State.launch (image : List Word) (pc0 : Nat) (periph0 : Vector Byte Config.periphBytes)
    (regs0 : Reg → Word) (ov0 : Bool) (cmp0 : Cmp) : State where
  rA := regs0 .A
  rX := regs0 .X
  rI1 := regs0 .I1
  rI2 := regs0 .I2
  rI3 := regs0 .I3
  rI4 := regs0 .I4
  rI5 := regs0 .I5
  rI6 := regs0 .I6
  rJ := regs0 .J
  ov := ov0
  cmp := cmp0
  pc := pc0
  mem := Memory.ofImage image
  periph := periph0
  status := .running

end Sys2Proof.Machine
end

