-- ==== Sys2Proof/Machine/Operands.lean ====
section
/-! DEFINITION. Every operand form: the resolved address M, the immediate word of address transfer,
the adjusted form of a field specification, and the field unit (40_datapath.md R100 to R104). -/

namespace Sys2Proof.Machine

/-! ### The resolved address -/

/-- The index offset (30_encoding.md R73, R75): the unsigned magnitude of bytes 3 and 4 of the
selected index register, 0 without one. -/
def State.indexOffset (s : State) : Option IndexReg → Nat
  | none => 0
  | some i => windowMag (s.reg (indexReg i)) 3 2

/-- The resolved address `M = AA + offset`, which does not wrap (30_encoding.md R76). -/
def State.effAddr (s : State) (a : Operand) : Nat :=
  a.addr.toNat + s.indexOffset a.index

/-- The immediate word `W = mkword(S, M)` of address transfer (43_address_transfer.md R169). -/
def State.immediate (s : State) (a : Operand) : Word :=
  mkword a.sign (s.effAddr a)

/-! ### The adjusted form of a field specification (30_encoding.md R78) -/

/-- The window includes the sign. -/
def zeroIncluded (f : FieldSpec) : Bool := decide (f.left = 0)

/-- The window has no magnitude bytes. -/
def onlyZero (f : FieldSpec) : Bool := decide (f.right = 0)

/-- The first byte index of the window. -/
def lo (f : FieldSpec) : Nat := max f.left 1 - 1

/-- The last byte index of the window. -/
def hi (f : FieldSpec) : Nat := max f.right 1 - 1

/-- The number of bytes of the window, when it is not sign-only: `n = r - l + 1`. -/
def width (f : FieldSpec) : Nat := hi f + 1 - lo f

/-- Byte `k` is in the window. -/
def inWindow (f : FieldSpec) (k : Nat) : Bool := decide (lo f ≤ k) && decide (k ≤ hi f)

/-- The field specification as the number F, the info of its faults (60_exceptions.md R270). -/
def fieldNumber (f : FieldSpec) : Nat := 8 * f.left + f.right

/-- The whole word, `(0:5)`. -/
def wholeWord : FieldSpec := { left := 0, right := 5 }

/-! ### The field unit -/

/-- `field_value(w, f)` (R100). -/
def fieldValue (w : Word) (f : FieldSpec) : Int :=
  if onlyZero f then 0
  else if zeroIncluded f && decide (w.sign = .minus) then
    -(windowMag w (lo f) (width f) : Int)
  else windowMag w (lo f) (width f)

/-- `copy_word_fields(from, to, f)` (R102): the window of `src` copied into the same place of `dst`. -/
def copyWordFields (src dst : Word) (f : FieldSpec) : Word :=
  Word.ofBytes (if zeroIncluded f then src.sign else dst.sign) fun k =>
    if !onlyZero f && inWindow f k then src.byte k else dst.byte k

/-- `copy_word_fields_i(from, to, f)` (R103): the window must touch the sign, byte 3 or byte 4. -/
def copyWordFieldsI (src dst : Word) (f : FieldSpec) : Except Raised Word :=
  if zeroIncluded f || (!onlyZero f && decide (3 ≤ hi f)) then .ok (copyWordFields src dst f)
  else .error { code := .invalidFieldSpec, info := fieldNumber f }

/-- `store_operation(from, to, f)` (R104): the low-order `n` bytes of `src`, right-justified into the
window of `dst`. -/
def storeOperation (src dst : Word) (f : FieldSpec) : Word :=
  Word.ofBytes (if zeroIncluded f then src.sign else dst.sign) fun k =>
    if !onlyZero f && inWindow f k then src.byte (5 - width f + (k - lo f)) else dst.byte k

end Sys2Proof.Machine
end

