-- ==== Sys2Proof/Machine/Flags.lean ====
section
/-! DEFINITION. Every computation of a flag or of a result's sign: the sign rules of the arithmetic
unit, the overflow test, the comparator and the six-way condition table. -/

namespace Sys2Proof.Machine

/-- The sign of a signed sum or product; 0 has the open sign `ZERO_RESULT_SIGN`
(40_datapath.md R105, R107). -/
def signOf (n : Int) : Sign :=
  if 0 < n then .plus else if n < 0 then .minus else Config.zeroResultSign

/-- The sum's magnitude does not fit the window: `m >= 256^n` (40_datapath.md R105). -/
def overflows (m : Nat) (f : FieldSpec) : Bool :=
  decide (256 ^ width f ≤ m)

/-- The bytes `k .. k+n-1` of two words compared left to right; the first that differs decides
(40_datapath.md R109). -/
def compareBytes (w1 w2 : Word) : Nat → Nat → Cmp
  | _, 0 => .equal
  | k, n + 1 =>
    if (w2.byte k).toNat < (w1.byte k).toNat then .greater
    else if (w1.byte k).toNat < (w2.byte k).toNat then .less
    else compareBytes w1 w2 (k + 1) n

/-- `compare_words(w1, w2, f)` (40_datapath.md R109). -/
def compareWords (w1 w2 : Word) (f : FieldSpec) : Cmp :=
  if onlyZero f then .equal
  else if zeroIncluded f && decide (w1.sign ≠ w2.sign) then
    match w1.sign with
    | .plus => .greater
    | .minus => .less
  else compareBytes w1 w2 (lo f) (width f)

/-- The condition table `cond(k, c)` (45_jump.md R211); a sub-code above 5 names no condition. -/
def conditionHolds (k : Nat) (c : Cmp) : Bool :=
  match k with
  | 0 => decide (c = .less)
  | 1 => decide (c = .equal)
  | 2 => decide (c = .greater)
  | 3 => decide (c ≠ .less)
  | 4 => decide (c ≠ .equal)
  | 5 => decide (c ≠ .greater)
  | _ => false

/-- The register-jump comparator `rc(reg)` (45_jump.md R199). -/
def State.compareWithZero (s : State) (r : Reg) : Cmp :=
  compareWords (s.reg r) Word.zero wholeWord

end Sys2Proof.Machine
end

