-- ==== Sys2Proof/Machine/Datapath.lean ====
section
/-! DEFINITION. The arithmetic unit and the shifter (40_datapath.md R105 to R113). All intermediates
are exact integers. -/

namespace Sys2Proof.Machine

/-! ### Adder, multiplier, divider -/

/-- What a sign-only window raises in the arithmetic unit (60_exceptions.md R270, code 3). -/
def domainFault (f : FieldSpec) : Raised :=
  { code := .arithmeticDomainFault, info := fieldNumber f }

/-- `add_words(w1, w2, f)` (R105): the result, built on `w1`, and the overflow. -/
def addWords (w1 w2 : Word) (f : FieldSpec) : Except Raised (Word × Bool) :=
  if onlyZero f then .error (domainFault f)
  else
    let sum := fieldValue w1 f + fieldValue w2 f
    let m := sum.natAbs
    .ok (Word.ofBytes (if zeroIncluded f then signOf sum else w1.sign) fun k =>
          if inWindow f k then BitVec.ofNat 8 (m % 256 ^ width f / 256 ^ (hi f - k)) else w1.byte k,
        overflows m f)

/-- `multiply_words(w1, w2, f)` (R107): the upper and lower halves of the exact product. -/
def multiplyWords (w1 w2 : Word) (f : FieldSpec) : Except Raised (Word × Word) :=
  if onlyZero f then .error (domainFault f)
  else
    let p := val w1 * fieldValue w2 f
    let s := if zeroIncluded f then signOf p else Config.defaultSign
    .ok (mkword s (p.natAbs / 256 ^ 5), mkword s (p.natAbs % 256 ^ 5))

/-- `divide_words(hi, lo, d, f)` (R108): quotient, remainder and divide-by-zero. Division by zero is
no fault (60_exceptions.md R271); a quotient of `256^5` or more is. -/
def divideWords (h l d : Word) (f : FieldSpec) : Except Raised (Word × Word × Bool) :=
  if onlyZero f then .error (domainFault f)
  else
    let v := (fieldValue d f).natAbs
    if v = 0 then .ok (mkword Config.defaultSign 0, mkword Config.defaultSign 0, true)
    else
      let dividend := mag h * 256 ^ 5 + mag l
      if 256 ^ 5 ≤ dividend / v then
        .error { code := .quotientOverflow, info := dividend / v }
      else
        let qs := if zeroIncluded f then (if h.sign = d.sign then Sign.plus else Sign.minus)
          else Config.defaultSign
        .ok (mkword qs (dividend / v), mkword h.sign (dividend % v), false)

/-! ### Shifter -/

/-- `single_word_left_shift(w, n, cyc)` (R110). -/
def shiftLeft (w : Word) (n : Nat) (cyc : Bool) : Word :=
  Word.ofBytes w.sign fun k =>
    if cyc then w.byte ((k + n) % 5) else if k + n ≤ 4 then w.byte (k + n) else 0

/-- `single_word_right_shift(w, n, cyc)` (R111); `(k - n) mod 5` is 0 to 4. -/
def shiftRight (w : Word) (n : Nat) (cyc : Bool) : Word :=
  Word.ofBytes w.sign fun k =>
    if cyc then w.byte ((k + (5 - n % 5)) % 5) else if n ≤ k then w.byte (k - n) else 0

/-- Byte `k` of the ten-byte sequence `hi.b[0..4] ++ lo.b[0..4]` (R112). -/
def pairByte (h l : Word) (k : Nat) : Byte :=
  if k < 5 then h.byte k else l.byte (k - 5)

/-- `double_word_left_shift(hi, lo, n)` (R112). -/
def doubleShiftLeft (h l : Word) (n : Nat) : Word × Word :=
  let t := fun k => if k + n ≤ 9 then pairByte h l (k + n) else 0
  (Word.ofBytes h.sign t, Word.ofBytes l.sign fun k => t (k + 5))

/-- `double_word_right_shift(hi, lo, n)` (R113). -/
def doubleShiftRight (h l : Word) (n : Nat) : Word × Word :=
  let t := fun k => if n ≤ k then pairByte h l (k - n) else 0
  (Word.ofBytes h.sign t, Word.ofBytes l.sign fun k => t (k + 5))

end Sys2Proof.Machine
end

