-- ==== Sys2Proof/Machine/Arithmetic.lean ====
section
/-! DEFINITION. ADD, SUB, MUL and DIV (41_arithmetic.md R140 to R143). -/

namespace Sys2Proof.Machine

/-- `(res, ov) = add_words(x[r], w, f); x[r] <- res; OV <- ov`: the shared end of ADD, SUB and the INC
and DEC families. OV is assigned, so it may be cleared (10_state.md R28). -/
def State.addInto (s : State) (r : Reg) (w : Word) (f : FieldSpec) : Except Raised State :=
  match addWords (s.reg r) w f with
  | .error e => .error e
  | .ok (res, ov) => .ok ((s.setReg r res).setOv ov)

/-- `(u, lo) = multiply_words(x[A], w, f); x[A] <- u; x[X] <- lo`; OV is not written. -/
def State.multiplyInto (s : State) (w : Word) (f : FieldSpec) : Except Raised State :=
  match multiplyWords (s.reg .A) w f with
  | .error e => .error e
  | .ok (u, l) => .ok ((s.setReg .A u).setReg .X l)

/-- `(q, r, dbz) = divide_words(x[A], x[X], w, f); x[A] <- q; x[X] <- r; OV <- dbz`. -/
def State.divideInto (s : State) (w : Word) (f : FieldSpec) : Except Raised State :=
  match divideWords (s.reg .A) (s.reg .X) w f with
  | .error e => .error e
  | .ok (q, r, dbz) => .ok (((s.setReg .A q).setReg .X r).setOv dbz)

/-- ADD: add the memory word to rA (R140). -/
def execAdd (a : Operand) (f : FieldSpec) (s : State) : Host.Outcome State Fault Refusal :=
  s.withMemoryWord (s.effAddr a) fun w => s.addInto .A w f

/-- SUB: subtract: add the negated memory word (R141, 40_datapath.md R106). -/
def execSub (a : Operand) (f : FieldSpec) (s : State) : Host.Outcome State Fault Refusal :=
  s.withMemoryWord (s.effAddr a) fun w => s.addInto .A (negate w) f

/-- MUL: multiply rA by the negated memory word (R142). -/
def execMul (a : Operand) (f : FieldSpec) (s : State) : Host.Outcome State Fault Refusal :=
  s.withMemoryWord (s.effAddr a) fun w => s.multiplyInto (negate w) f

/-- DIV: divide rA:rX by the memory word (R143). -/
def execDiv (a : Operand) (f : FieldSpec) (s : State) : Host.Outcome State Fault Refusal :=
  s.withMemoryWord (s.effAddr a) fun w => s.divideInto w f

end Sys2Proof.Machine
end

