-- ==== Sys2Proof/Machine/AddressTransfer.lean ====
section
/-! DEFINITION. Address transfer: ENT, ENN, INC and DEC (43_address_transfer.md R169 to R181). -/

namespace Sys2Proof.Machine

/-- `x[r] <- W` (R170 to R172). -/
def State.enter (s : State) (r : Reg) (a : Operand) : Host.Outcome State Fault Refusal :=
  .next (s.setReg r (s.immediate a))

/-- `if HAS_ENN: x[r] <- negate(W)`, else the no-operation (R173 to R175). -/
def State.enterNegative (s : State) (r : Reg) (a : Operand) : Host.Outcome State Fault Refusal :=
  .next (if Config.hasEnn then s.setReg r (negate (s.immediate a)) else s)

/-- `(res, ov) = add_words(x[r], W, (0:5))` (R176 to R178). -/
def State.increment (s : State) (r : Reg) (a : Operand) : Host.Outcome State Fault Refusal :=
  s.conclude (s.addInto r (s.immediate a) wholeWord)

/-- `(res, ov) = add_words(x[r], negate(W), (0:5))` (R179 to R181). -/
def State.decrement (s : State) (r : Reg) (a : Operand) : Host.Outcome State Fault Refusal :=
  s.conclude (s.addInto r (negate (s.immediate a)) wholeWord)

/-- ENTA: enter rA (R170). -/
def execEnta (a : Operand) (s : State) : Host.Outcome State Fault Refusal :=
  s.enter .A a

/-- ENTX: enter rX (R171). -/
def execEntx (a : Operand) (s : State) : Host.Outcome State Fault Refusal :=
  s.enter .X a

/-- ENT1: enter rI1 (R172). -/
def execEnt1 (a : Operand) (s : State) : Host.Outcome State Fault Refusal :=
  s.enter .I1 a

/-- ENT2: enter rI2 (R172). -/
def execEnt2 (a : Operand) (s : State) : Host.Outcome State Fault Refusal :=
  s.enter .I2 a

/-- ENT3: enter rI3 (R172). -/
def execEnt3 (a : Operand) (s : State) : Host.Outcome State Fault Refusal :=
  s.enter .I3 a

/-- ENT4: enter rI4 (R172). -/
def execEnt4 (a : Operand) (s : State) : Host.Outcome State Fault Refusal :=
  s.enter .I4 a

/-- ENT5: enter rI5 (R172). -/
def execEnt5 (a : Operand) (s : State) : Host.Outcome State Fault Refusal :=
  s.enter .I5 a

/-- ENT6: enter rI6 (R172). -/
def execEnt6 (a : Operand) (s : State) : Host.Outcome State Fault Refusal :=
  s.enter .I6 a

/-- ENNA: enter rA, negated (R173). -/
def execEnna (a : Operand) (s : State) : Host.Outcome State Fault Refusal :=
  s.enterNegative .A a

/-- ENNX: enter rX, negated (R174). -/
def execEnnx (a : Operand) (s : State) : Host.Outcome State Fault Refusal :=
  s.enterNegative .X a

/-- ENN1: enter rI1, negated (R175). -/
def execEnn1 (a : Operand) (s : State) : Host.Outcome State Fault Refusal :=
  s.enterNegative .I1 a

/-- ENN2: enter rI2, negated (R175). -/
def execEnn2 (a : Operand) (s : State) : Host.Outcome State Fault Refusal :=
  s.enterNegative .I2 a

/-- ENN3: enter rI3, negated (R175). -/
def execEnn3 (a : Operand) (s : State) : Host.Outcome State Fault Refusal :=
  s.enterNegative .I3 a

/-- ENN4: enter rI4, negated (R175). -/
def execEnn4 (a : Operand) (s : State) : Host.Outcome State Fault Refusal :=
  s.enterNegative .I4 a

/-- ENN5: enter rI5, negated (R175). -/
def execEnn5 (a : Operand) (s : State) : Host.Outcome State Fault Refusal :=
  s.enterNegative .I5 a

/-- ENN6: enter rI6, negated (R175). -/
def execEnn6 (a : Operand) (s : State) : Host.Outcome State Fault Refusal :=
  s.enterNegative .I6 a

/-- INCA: increment rA (R176). -/
def execInca (a : Operand) (s : State) : Host.Outcome State Fault Refusal :=
  s.increment .A a

/-- INCX: increment rX (R177). -/
def execIncx (a : Operand) (s : State) : Host.Outcome State Fault Refusal :=
  s.increment .X a

/-- INC1: increment rI1 (R178). -/
def execInc1 (a : Operand) (s : State) : Host.Outcome State Fault Refusal :=
  s.increment .I1 a

/-- INC2: increment rI2 (R178). -/
def execInc2 (a : Operand) (s : State) : Host.Outcome State Fault Refusal :=
  s.increment .I2 a

/-- INC3: increment rI3 (R178). -/
def execInc3 (a : Operand) (s : State) : Host.Outcome State Fault Refusal :=
  s.increment .I3 a

/-- INC4: increment rI4 (R178). -/
def execInc4 (a : Operand) (s : State) : Host.Outcome State Fault Refusal :=
  s.increment .I4 a

/-- INC5: increment rI5 (R178). -/
def execInc5 (a : Operand) (s : State) : Host.Outcome State Fault Refusal :=
  s.increment .I5 a

/-- INC6: increment rI6 (R178). -/
def execInc6 (a : Operand) (s : State) : Host.Outcome State Fault Refusal :=
  s.increment .I6 a

/-- DECA: decrement rA (R179). -/
def execDeca (a : Operand) (s : State) : Host.Outcome State Fault Refusal :=
  s.decrement .A a

/-- DECX: decrement rX (R180). -/
def execDecx (a : Operand) (s : State) : Host.Outcome State Fault Refusal :=
  s.decrement .X a

/-- DEC1: decrement rI1 (R181). -/
def execDec1 (a : Operand) (s : State) : Host.Outcome State Fault Refusal :=
  s.decrement .I1 a

/-- DEC2: decrement rI2 (R181). -/
def execDec2 (a : Operand) (s : State) : Host.Outcome State Fault Refusal :=
  s.decrement .I2 a

/-- DEC3: decrement rI3 (R181). -/
def execDec3 (a : Operand) (s : State) : Host.Outcome State Fault Refusal :=
  s.decrement .I3 a

/-- DEC4: decrement rI4 (R181). -/
def execDec4 (a : Operand) (s : State) : Host.Outcome State Fault Refusal :=
  s.decrement .I4 a

/-- DEC5: decrement rI5 (R181). -/
def execDec5 (a : Operand) (s : State) : Host.Outcome State Fault Refusal :=
  s.decrement .I5 a

/-- DEC6: decrement rI6 (R181). -/
def execDec6 (a : Operand) (s : State) : Host.Outcome State Fault Refusal :=
  s.decrement .I6 a

end Sys2Proof.Machine
end

