-- ==== Sys2Proof/Machine/Compare.lean ====
section
/-! DEFINITION. Compare (44_compare.md R190 to R192). -/

namespace Sys2Proof.Machine

/-- `CMP <- compare_words(x[r], MemRead(M), f)` (R190 to R192). -/
def State.compare (s : State) (r : Reg) (a : Operand) (f : FieldSpec) :
    Host.Outcome State Fault Refusal :=
  s.withMemoryWord (s.effAddr a) fun w => .ok (s.setCmp (compareWords (s.reg r) w f))

/-- CMPA: compare rA with memory (R190). -/
def execCmpa (a : Operand) (f : FieldSpec) (s : State) : Host.Outcome State Fault Refusal :=
  s.compare .A a f

/-- CMPX: compare rX with memory (R191). -/
def execCmpx (a : Operand) (f : FieldSpec) (s : State) : Host.Outcome State Fault Refusal :=
  s.compare .X a f

/-- CMP1: compare rI1 with memory (R192). -/
def execCmp1 (a : Operand) (f : FieldSpec) (s : State) : Host.Outcome State Fault Refusal :=
  s.compare .I1 a f

/-- CMP2: compare rI2 with memory (R192). -/
def execCmp2 (a : Operand) (f : FieldSpec) (s : State) : Host.Outcome State Fault Refusal :=
  s.compare .I2 a f

/-- CMP3: compare rI3 with memory (R192). -/
def execCmp3 (a : Operand) (f : FieldSpec) (s : State) : Host.Outcome State Fault Refusal :=
  s.compare .I3 a f

/-- CMP4: compare rI4 with memory (R192). -/
def execCmp4 (a : Operand) (f : FieldSpec) (s : State) : Host.Outcome State Fault Refusal :=
  s.compare .I4 a f

/-- CMP5: compare rI5 with memory (R192). -/
def execCmp5 (a : Operand) (f : FieldSpec) (s : State) : Host.Outcome State Fault Refusal :=
  s.compare .I5 a f

/-- CMP6: compare rI6 with memory (R192). -/
def execCmp6 (a : Operand) (f : FieldSpec) (s : State) : Host.Outcome State Fault Refusal :=
  s.compare .I6 a f

end Sys2Proof.Machine
end

