-- ==== Sys2Proof/Machine/Control.lean ====
section
/-! DEFINITION. Halt and no-operation (47_control_and_run_loop.md R250, R251). -/

namespace Sys2Proof.Machine

/-- HLT: `pc <- 4000`; the run loop's halt check then stops the machine (R250). The operand is formed
but not used. -/
def execHlt (_ : Operand) (s : State) : Host.Outcome State Fault Refusal :=
  .next (s.setPc Config.halt)

/-- NOP at opcode 0: nothing (R251). -/
def execNop (_ : Operand) (_ : Byte) (s : State) : Host.Outcome State Fault Refusal :=
  .next s

/-- NOP at every pair of opcode and F that no other row maps: nothing (R251, 30_encoding.md R81,
R82). -/
def execNopUnmapped (_ : Operand) (_ _ : Byte) (s : State) : Host.Outcome State Fault Refusal :=
  .next s

end Sys2Proof.Machine
end

