-- ==== Sys2Proof/Machine/Jump.lean ====
section
/-! DEFINITION. Jumps (45_jump.md R199 to R229). No jump checks its target: the next fetch does. -/

namespace Sys2Proof.Machine

/-- A jump on a condition, to M, saving the return address (R200). -/
def State.jump (s : State) (taken : Bool) (a : Operand) : Host.Outcome State Fault Refusal :=
  .next (s.jumpIf taken (s.effAddr a) true)

/-- An overflow jump clears OV whether or not it is taken; the condition is on the old value
(R203, R204). -/
def State.overflowJump (s : State) (taken : Bool) (a : Operand) :
    Host.Outcome State Fault Refusal :=
  .next ((s.setOv false).jumpIf taken (s.effAddr a) true)

/-- A jump on the comparison flag, `cond(k, CMP)` (R205 to R210). -/
def State.flagJump (s : State) (k : Nat) (a : Operand) : Host.Outcome State Fault Refusal :=
  s.jump (conditionHolds k s.cmp) a

/-- A register jump, `cond(k, rc(r))`; CMP is not written (R199). -/
def State.registerJump (s : State) (k : Nat) (r : Reg) (a : Operand) :
    Host.Outcome State Fault Refusal :=
  s.jump (conditionHolds k (s.compareWithZero r)) a

/-- JMP: jump, saving the return address (R201). -/
def execJmp (a : Operand) (s : State) : Host.Outcome State Fault Refusal :=
  s.jump true a

/-- JSJ: jump without saving (R202). -/
def execJsj (a : Operand) (s : State) : Host.Outcome State Fault Refusal :=
  .next (s.jumpIf true (s.effAddr a) false)

/-- JOV: jump on overflow (R203). -/
def execJov (a : Operand) (s : State) : Host.Outcome State Fault Refusal :=
  s.overflowJump s.ov a

/-- JNOV: jump on no overflow (R204). -/
def execJnov (a : Operand) (s : State) : Host.Outcome State Fault Refusal :=
  s.overflowJump (!s.ov) a

/-- JL: jump if CMP is LESS (R205). -/
def execJl (a : Operand) (s : State) : Host.Outcome State Fault Refusal :=
  s.flagJump 0 a

/-- JE: jump if CMP is EQUAL (R206). -/
def execJe (a : Operand) (s : State) : Host.Outcome State Fault Refusal :=
  s.flagJump 1 a

/-- JG: jump if CMP is GREATER (R207). -/
def execJg (a : Operand) (s : State) : Host.Outcome State Fault Refusal :=
  s.flagJump 2 a

/-- JGE: jump if CMP is GREATER or EQUAL (R208). -/
def execJge (a : Operand) (s : State) : Host.Outcome State Fault Refusal :=
  s.flagJump 3 a

/-- JNE: jump if CMP is NOT EQUAL (R209). -/
def execJne (a : Operand) (s : State) : Host.Outcome State Fault Refusal :=
  s.flagJump 4 a

/-- JLE: jump if CMP is LESS or EQUAL (R210). -/
def execJle (a : Operand) (s : State) : Host.Outcome State Fault Refusal :=
  s.flagJump 5 a

/-- JAN: jump if rA is negative (R212). -/
def execJan (a : Operand) (s : State) : Host.Outcome State Fault Refusal :=
  s.registerJump 0 .A a

/-- JAZ: jump if rA is zero (R213). -/
def execJaz (a : Operand) (s : State) : Host.Outcome State Fault Refusal :=
  s.registerJump 1 .A a

/-- JAP: jump if rA is positive (R214). -/
def execJap (a : Operand) (s : State) : Host.Outcome State Fault Refusal :=
  s.registerJump 2 .A a

/-- JANN: jump if rA is non-negative (R215). -/
def execJann (a : Operand) (s : State) : Host.Outcome State Fault Refusal :=
  s.registerJump 3 .A a

/-- JANZ: jump if rA is non-zero (R216). -/
def execJanz (a : Operand) (s : State) : Host.Outcome State Fault Refusal :=
  s.registerJump 4 .A a

/-- JANP: jump if rA is non-positive (R217). -/
def execJanp (a : Operand) (s : State) : Host.Outcome State Fault Refusal :=
  s.registerJump 5 .A a

/-- JXN: jump if rX is negative (R218). -/
def execJxn (a : Operand) (s : State) : Host.Outcome State Fault Refusal :=
  s.registerJump 0 .X a

/-- JXZ: jump if rX is zero (R219). -/
def execJxz (a : Operand) (s : State) : Host.Outcome State Fault Refusal :=
  s.registerJump 1 .X a

/-- JXP: jump if rX is positive (R220). -/
def execJxp (a : Operand) (s : State) : Host.Outcome State Fault Refusal :=
  s.registerJump 2 .X a

/-- JXNN: jump if rX is non-negative (R221). -/
def execJxnn (a : Operand) (s : State) : Host.Outcome State Fault Refusal :=
  s.registerJump 3 .X a

/-- JXNZ: jump if rX is non-zero (R222). -/
def execJxnz (a : Operand) (s : State) : Host.Outcome State Fault Refusal :=
  s.registerJump 4 .X a

/-- JXNP: jump if rX is non-positive (R223). -/
def execJxnp (a : Operand) (s : State) : Host.Outcome State Fault Refusal :=
  s.registerJump 5 .X a

/-- J1N: jump if rI1 is negative (R224). -/
def execJ1n (a : Operand) (s : State) : Host.Outcome State Fault Refusal :=
  s.registerJump 0 .I1 a

/-- J1Z: jump if rI1 is zero (R225). -/
def execJ1z (a : Operand) (s : State) : Host.Outcome State Fault Refusal :=
  s.registerJump 1 .I1 a

/-- J1P: jump if rI1 is positive (R226). -/
def execJ1p (a : Operand) (s : State) : Host.Outcome State Fault Refusal :=
  s.registerJump 2 .I1 a

/-- J1NN: jump if rI1 is non-negative (R227). -/
def execJ1nn (a : Operand) (s : State) : Host.Outcome State Fault Refusal :=
  s.registerJump 3 .I1 a

/-- J1NZ: jump if rI1 is non-zero (R228). -/
def execJ1nz (a : Operand) (s : State) : Host.Outcome State Fault Refusal :=
  s.registerJump 4 .I1 a

/-- J1NP: jump if rI1 is non-positive (R229). -/
def execJ1np (a : Operand) (s : State) : Host.Outcome State Fault Refusal :=
  s.registerJump 5 .I1 a

/-- J2N: jump if rI2 is negative (R224). -/
def execJ2n (a : Operand) (s : State) : Host.Outcome State Fault Refusal :=
  s.registerJump 0 .I2 a

/-- J2Z: jump if rI2 is zero (R225). -/
def execJ2z (a : Operand) (s : State) : Host.Outcome State Fault Refusal :=
  s.registerJump 1 .I2 a

/-- J2P: jump if rI2 is positive (R226). -/
def execJ2p (a : Operand) (s : State) : Host.Outcome State Fault Refusal :=
  s.registerJump 2 .I2 a

/-- J2NN: jump if rI2 is non-negative (R227). -/
def execJ2nn (a : Operand) (s : State) : Host.Outcome State Fault Refusal :=
  s.registerJump 3 .I2 a

/-- J2NZ: jump if rI2 is non-zero (R228). -/
def execJ2nz (a : Operand) (s : State) : Host.Outcome State Fault Refusal :=
  s.registerJump 4 .I2 a

/-- J2NP: jump if rI2 is non-positive (R229). -/
def execJ2np (a : Operand) (s : State) : Host.Outcome State Fault Refusal :=
  s.registerJump 5 .I2 a

/-- J3N: jump if rI3 is negative (R224). -/
def execJ3n (a : Operand) (s : State) : Host.Outcome State Fault Refusal :=
  s.registerJump 0 .I3 a

/-- J3Z: jump if rI3 is zero (R225). -/
def execJ3z (a : Operand) (s : State) : Host.Outcome State Fault Refusal :=
  s.registerJump 1 .I3 a

/-- J3P: jump if rI3 is positive (R226). -/
def execJ3p (a : Operand) (s : State) : Host.Outcome State Fault Refusal :=
  s.registerJump 2 .I3 a

/-- J3NN: jump if rI3 is non-negative (R227). -/
def execJ3nn (a : Operand) (s : State) : Host.Outcome State Fault Refusal :=
  s.registerJump 3 .I3 a

/-- J3NZ: jump if rI3 is non-zero (R228). -/
def execJ3nz (a : Operand) (s : State) : Host.Outcome State Fault Refusal :=
  s.registerJump 4 .I3 a

/-- J3NP: jump if rI3 is non-positive (R229). -/
def execJ3np (a : Operand) (s : State) : Host.Outcome State Fault Refusal :=
  s.registerJump 5 .I3 a

/-- J4N: jump if rI4 is negative (R224). -/
def execJ4n (a : Operand) (s : State) : Host.Outcome State Fault Refusal :=
  s.registerJump 0 .I4 a

/-- J4Z: jump if rI4 is zero (R225). -/
def execJ4z (a : Operand) (s : State) : Host.Outcome State Fault Refusal :=
  s.registerJump 1 .I4 a

/-- J4P: jump if rI4 is positive (R226). -/
def execJ4p (a : Operand) (s : State) : Host.Outcome State Fault Refusal :=
  s.registerJump 2 .I4 a

/-- J4NN: jump if rI4 is non-negative (R227). -/
def execJ4nn (a : Operand) (s : State) : Host.Outcome State Fault Refusal :=
  s.registerJump 3 .I4 a

/-- J4NZ: jump if rI4 is non-zero (R228). -/
def execJ4nz (a : Operand) (s : State) : Host.Outcome State Fault Refusal :=
  s.registerJump 4 .I4 a

/-- J4NP: jump if rI4 is non-positive (R229). -/
def execJ4np (a : Operand) (s : State) : Host.Outcome State Fault Refusal :=
  s.registerJump 5 .I4 a

/-- J5N: jump if rI5 is negative (R224). -/
def execJ5n (a : Operand) (s : State) : Host.Outcome State Fault Refusal :=
  s.registerJump 0 .I5 a

/-- J5Z: jump if rI5 is zero (R225). -/
def execJ5z (a : Operand) (s : State) : Host.Outcome State Fault Refusal :=
  s.registerJump 1 .I5 a

/-- J5P: jump if rI5 is positive (R226). -/
def execJ5p (a : Operand) (s : State) : Host.Outcome State Fault Refusal :=
  s.registerJump 2 .I5 a

/-- J5NN: jump if rI5 is non-negative (R227). -/
def execJ5nn (a : Operand) (s : State) : Host.Outcome State Fault Refusal :=
  s.registerJump 3 .I5 a

/-- J5NZ: jump if rI5 is non-zero (R228). -/
def execJ5nz (a : Operand) (s : State) : Host.Outcome State Fault Refusal :=
  s.registerJump 4 .I5 a

/-- J5NP: jump if rI5 is non-positive (R229). -/
def execJ5np (a : Operand) (s : State) : Host.Outcome State Fault Refusal :=
  s.registerJump 5 .I5 a

/-- J6N: jump if rI6 is negative (R224). -/
def execJ6n (a : Operand) (s : State) : Host.Outcome State Fault Refusal :=
  s.registerJump 0 .I6 a

/-- J6Z: jump if rI6 is zero (R225). -/
def execJ6z (a : Operand) (s : State) : Host.Outcome State Fault Refusal :=
  s.registerJump 1 .I6 a

/-- J6P: jump if rI6 is positive (R226). -/
def execJ6p (a : Operand) (s : State) : Host.Outcome State Fault Refusal :=
  s.registerJump 2 .I6 a

/-- J6NN: jump if rI6 is non-negative (R227). -/
def execJ6nn (a : Operand) (s : State) : Host.Outcome State Fault Refusal :=
  s.registerJump 3 .I6 a

/-- J6NZ: jump if rI6 is non-zero (R228). -/
def execJ6nz (a : Operand) (s : State) : Host.Outcome State Fault Refusal :=
  s.registerJump 4 .I6 a

/-- J6NP: jump if rI6 is non-positive (R229). -/
def execJ6np (a : Operand) (s : State) : Host.Outcome State Fault Refusal :=
  s.registerJump 5 .I6 a

end Sys2Proof.Machine
end

