-- ==== Sys2Proof/Machine/LoadStore.lean ====
section
/-! DEFINITION. Loads and stores (42_load_store.md R150 to R160). -/

namespace Sys2Proof.Machine

/-- `x[r] <- copy_word_fields(MemRead(M), x[r], f)` (R150, R151). -/
def State.load (s : State) (r : Reg) (a : Operand) (f : FieldSpec) :
    Host.Outcome State Fault Refusal :=
  s.withMemoryWord (s.effAddr a) fun w => .ok (s.setReg r (copyWordFields w (s.reg r) f))

/-- The negative load: the sign is flipped after the copy, whatever the window (R153, R154). -/
def State.loadNegated (s : State) (r : Reg) (a : Operand) (f : FieldSpec) :
    Host.Outcome State Fault Refusal :=
  s.withMemoryWord (s.effAddr a) fun w =>
    .ok (s.setReg r (negate (copyWordFields w (s.reg r) f)))

/-- The load of an index register, with the field check of 40_datapath.md R103 (R152). -/
def State.loadIndex (s : State) (i : IndexReg) (a : Operand) (f : FieldSpec) :
    Host.Outcome State Fault Refusal :=
  s.withMemoryWord (s.effAddr a) fun w =>
    match copyWordFieldsI w (s.reg (indexReg i)) f with
    | .error e => .error e
    | .ok t => .ok (s.setReg (indexReg i) t)

/-- The negative load of an index register (R155). -/
def State.loadIndexNegated (s : State) (i : IndexReg) (a : Operand) (f : FieldSpec) :
    Host.Outcome State Fault Refusal :=
  s.withMemoryWord (s.effAddr a) fun w =>
    match copyWordFieldsI w (s.reg (indexReg i)) f with
    | .error e => .error e
    | .ok t => .ok (s.setReg (indexReg i) (negate t))

/-- `MemWrite(M, store_operation(src, MemRead(M), f))` (R156 to R160). -/
def State.store (s : State) (src : Word) (a : Operand) (f : FieldSpec) :
    Host.Outcome State Fault Refusal :=
  s.withMemoryWord (s.effAddr a) fun w =>
    .ok (s.writeWord (s.effAddr a) (storeOperation src w f))

/-- LDA: load rA (R150). -/
def execLda (a : Operand) (f : FieldSpec) (s : State) : Host.Outcome State Fault Refusal :=
  s.load .A a f

/-- LDX: load rX (R151). -/
def execLdx (a : Operand) (f : FieldSpec) (s : State) : Host.Outcome State Fault Refusal :=
  s.load .X a f

/-- LD1: load rI1 (R152). -/
def execLd1 (a : Operand) (f : FieldSpec) (s : State) : Host.Outcome State Fault Refusal :=
  s.loadIndex .i1 a f

/-- LD2: load rI2 (R152). -/
def execLd2 (a : Operand) (f : FieldSpec) (s : State) : Host.Outcome State Fault Refusal :=
  s.loadIndex .i2 a f

/-- LD3: load rI3 (R152). -/
def execLd3 (a : Operand) (f : FieldSpec) (s : State) : Host.Outcome State Fault Refusal :=
  s.loadIndex .i3 a f

/-- LD4: load rI4 (R152). -/
def execLd4 (a : Operand) (f : FieldSpec) (s : State) : Host.Outcome State Fault Refusal :=
  s.loadIndex .i4 a f

/-- LD5: load rI5 (R152). -/
def execLd5 (a : Operand) (f : FieldSpec) (s : State) : Host.Outcome State Fault Refusal :=
  s.loadIndex .i5 a f

/-- LD6: load rI6 (R152). -/
def execLd6 (a : Operand) (f : FieldSpec) (s : State) : Host.Outcome State Fault Refusal :=
  s.loadIndex .i6 a f

/-- LDAN: load rA, then negate (R153). -/
def execLdan (a : Operand) (f : FieldSpec) (s : State) : Host.Outcome State Fault Refusal :=
  s.loadNegated .A a f

/-- LDXN: load rX, then negate (R154). -/
def execLdxn (a : Operand) (f : FieldSpec) (s : State) : Host.Outcome State Fault Refusal :=
  s.loadNegated .X a f

/-- LD1N: load rI1, then negate (R155). -/
def execLd1n (a : Operand) (f : FieldSpec) (s : State) : Host.Outcome State Fault Refusal :=
  s.loadIndexNegated .i1 a f

/-- LD2N: load rI2, then negate (R155). -/
def execLd2n (a : Operand) (f : FieldSpec) (s : State) : Host.Outcome State Fault Refusal :=
  s.loadIndexNegated .i2 a f

/-- LD3N: load rI3, then negate (R155). -/
def execLd3n (a : Operand) (f : FieldSpec) (s : State) : Host.Outcome State Fault Refusal :=
  s.loadIndexNegated .i3 a f

/-- LD4N: load rI4, then negate (R155). -/
def execLd4n (a : Operand) (f : FieldSpec) (s : State) : Host.Outcome State Fault Refusal :=
  s.loadIndexNegated .i4 a f

/-- LD5N: load rI5, then negate (R155). -/
def execLd5n (a : Operand) (f : FieldSpec) (s : State) : Host.Outcome State Fault Refusal :=
  s.loadIndexNegated .i5 a f

/-- LD6N: load rI6, then negate (R155). -/
def execLd6n (a : Operand) (f : FieldSpec) (s : State) : Host.Outcome State Fault Refusal :=
  s.loadIndexNegated .i6 a f

/-- STA: store rA (R156). -/
def execSta (a : Operand) (f : FieldSpec) (s : State) : Host.Outcome State Fault Refusal :=
  s.store (s.reg .A) a f

/-- STX: store rX (R157). -/
def execStx (a : Operand) (f : FieldSpec) (s : State) : Host.Outcome State Fault Refusal :=
  s.store (s.reg .X) a f

/-- ST1: store rI1 (R158). -/
def execSt1 (a : Operand) (f : FieldSpec) (s : State) : Host.Outcome State Fault Refusal :=
  s.store (s.reg .I1) a f

/-- ST2: store rI2 (R158). -/
def execSt2 (a : Operand) (f : FieldSpec) (s : State) : Host.Outcome State Fault Refusal :=
  s.store (s.reg .I2) a f

/-- ST3: store rI3 (R158). -/
def execSt3 (a : Operand) (f : FieldSpec) (s : State) : Host.Outcome State Fault Refusal :=
  s.store (s.reg .I3) a f

/-- ST4: store rI4 (R158). -/
def execSt4 (a : Operand) (f : FieldSpec) (s : State) : Host.Outcome State Fault Refusal :=
  s.store (s.reg .I4) a f

/-- ST5: store rI5 (R158). -/
def execSt5 (a : Operand) (f : FieldSpec) (s : State) : Host.Outcome State Fault Refusal :=
  s.store (s.reg .I5) a f

/-- ST6: store rI6 (R158). -/
def execSt6 (a : Operand) (f : FieldSpec) (s : State) : Host.Outcome State Fault Refusal :=
  s.store (s.reg .I6) a f

/-- STJ: store rJ (R159). -/
def execStj (a : Operand) (f : FieldSpec) (s : State) : Host.Outcome State Fault Refusal :=
  s.store (s.reg .J) a f

/-- STZ: store the zero word (R160). -/
def execStz (a : Operand) (f : FieldSpec) (s : State) : Host.Outcome State Fault Refusal :=
  s.store Word.zero a f

end Sys2Proof.Machine
end

