-- ==== Sys2Proof/Machine/Shift.lean ====
section
/-! DEFINITION. Shifts (46_shift.md R240 to R246). The sign of a word is never altered. -/

namespace Sys2Proof.Machine

/-- A shift of rA alone: `x[A] <- sh(x[A], n)` with the count `n = M` (R240). -/
def State.shiftA (s : State) (sh : Word → Nat → Word) (a : Operand) :
    Host.Outcome State Fault Refusal :=
  .next (s.setReg .A (sh (s.reg .A) (s.effAddr a)))

/-- A shift of rA and rX as one ten-byte value, with the count `n = M` (R240, R243, R244). -/
def State.shiftAX (s : State) (sh : Word → Word → Nat → Word × Word) (a : Operand) :
    Host.Outcome State Fault Refusal :=
  let t := sh (s.reg .A) (s.reg .X) (s.effAddr a)
  .next ((s.setReg .A t.1).setReg .X t.2)

/-- SLA: shift rA left (R241). -/
def execSla (a : Operand) (s : State) : Host.Outcome State Fault Refusal :=
  s.shiftA (fun w n => shiftLeft w n false) a

/-- SRA: shift rA right (R242). -/
def execSra (a : Operand) (s : State) : Host.Outcome State Fault Refusal :=
  s.shiftA (fun w n => shiftRight w n false) a

/-- SLAX: shift rA and rX left (R243). -/
def execSlax (a : Operand) (s : State) : Host.Outcome State Fault Refusal :=
  s.shiftAX doubleShiftLeft a

/-- SRAX: shift rA and rX right (R244). -/
def execSrax (a : Operand) (s : State) : Host.Outcome State Fault Refusal :=
  s.shiftAX doubleShiftRight a

/-- SLC: rotate rA left (R245). -/
def execSlc (a : Operand) (s : State) : Host.Outcome State Fault Refusal :=
  s.shiftA (fun w n => shiftLeft w n true) a

/-- SRC: rotate rA right (R246). -/
def execSrc (a : Operand) (s : State) : Host.Outcome State Fault Refusal :=
  s.shiftA (fun w n => shiftRight w n true) a

end Sys2Proof.Machine
end

