-- ==== Sys2Proof/Machine/Step.lean ====
section
/-! DEFINITION. One step of the CORE (47_control_and_run_loop.md R252), and the placing of a word where
the next fetch reads it. -/

namespace Sys2Proof.Machine

/-- The step (R252): from RUNNING, check the fetch (R253), fetch, decode, execute, and then the halt
check (R254) or the increment (R255). A fault is taken from the state the step began in (60_exceptions.md
R272). From HALTED and FAULTED no step is defined (R257): `Fault` names the two. -/
def step (s : State) : Host.Outcome State Fault Refusal :=
  match s.status with
  | .halted => .fault .stepAfterHalt
  | .faulted c r => .fault (.stepAfterFault c r)
  | .running =>
    match s.fetchedWord with
    | none => .next (s.takeFault { code := .fetchOutOfRange, info := s.pc })
    | some w =>
      match decode w with
      | .error e => .next (s.takeFault (raisedByDecode e))
      | .ok i =>
        match exec i s with
        | .next t => .next t.advance
        | .fault r => .fault r
        | .refused r => .refused r

/-- The loader's hand on one word: `s` with the instruction word of the opcode-table image `w` at the
pc, where `step` fetches (notes/assumptions/14.md). A pc outside memory has no word to place. -/
def State.withFetchWord (s : State) (nbits w : Nat) : State :=
  if s.pc < Config.memWords then s.writeWord s.pc (tableWord nbits w) else s

end Sys2Proof.Machine
end

