-- ==== Sys2Proof/Machine/Run.lean ====
section
/-! DEFINITION. The run of the CORE: `step`, repeated while the status is RUNNING
(47_control_and_run_loop.md R256). -/

namespace Sys2Proof.Machine

/-- The run has ended: the status is terminal (R257). -/
def State.ended (s : State) : Bool :=
  match s.status with
  | .running => false
  | .halted => true
  | .faulted _ _ => true

/-- The state after `n` steps of the run from `s`, or the end state if the run ends earlier (R256).
`step` has no next state exactly from a terminal status (R257). -/
def runSteps : Nat → State → State
  | 0, s => s
  | n + 1, s =>
    match step s with
    | .next t => runSteps n t
    | .fault _ => s
    | .refused _ => s

/-- The run from `s` (R256), with the fuel count the rule lets a model take: the end state, whose status
is HALTED or FAULTED(code, record), or none when the run has not ended within `fuel` steps. Running
out of fuel is no event of the machine. -/
def run (fuel : Nat) (s : State) : Option State :=
  if (runSteps fuel s).ended then some (runSteps fuel s) else none

/-- The run from `s` ends in `t`. -/
def State.RunsTo (s t : State) : Prop :=
  ∃ fuel, run fuel s = some t

/-- The run from `s` has no end: the program loops forever (R256). -/
def State.RunsForever (s : State) : Prop :=
  ∀ fuel, run fuel s = none

end Sys2Proof.Machine
end

