-- ==== Sys2Proof/Safety.lean ====
section
/-! DEFINITION. What counts as a good state and as a safe run, in the terms the claims use. -/

namespace Sys2Proof.Machine

/-- What the info number of a fault can be, by its code (60_exceptions.md R270), and where the pc was:
a fetch fault happens outside memory, every other fault inside it. -/
def FaultCode.infoFits (pc info : Nat) : FaultCode → Prop
  | .invalidIndex => pc < 4000 ∧ 7 ≤ info ∧ info ≤ 255
  | .invalidFieldSpec => pc < 4000 ∧ info ∈ [9, 10, 11, 18, 19, 27]
  | .arithmeticDomainFault => pc < 4000 ∧ info = 0
  | .addressOutOfRange => pc < 4000 ∧ 4000 ≤ info ∧ info ≤ 131070
  | .fieldSpecOutOfRange => pc < 4000 ∧ info ≤ 255 ∧ ¬ (info / 8 ≤ info % 8 ∧ info % 8 ≤ 5)
  | .fetchOutOfRange => 4000 ≤ pc ∧ info = pc
  | .quotientOverflow => pc < 4000 ∧ 256 ^ 5 ≤ info ∧ info < 256 ^ 10

/-- The status agrees with the rest of the state: a halted machine stands at the sentinel (R254), and
a faulted one holds the record of the word its pc points at (R272). -/
def State.statusFits (s : State) : Prop :=
  match s.status with
  | .running => True
  | .halted => s.pc = 4000
  | .faulted c r => r.pc = s.pc ∧ r.word = s.fetchedWord ∧ c.infoFits r.pc r.info

/-- The invariant of a machine launched with a pc of 17 bits: memory in canonical form
(notes/assumptions/1.md), a pc that stays within 17 bits (10_state.md R30), and a status that fits. -/
structure State.Inv (s : State) : Prop where
  memCanonical : s.mem.wf = true
  pcInRange : s.pc ≤ 131071
  status : s.statusFits

/-- No fault has been taken. -/
def State.unfaulted (s : State) : Bool :=
  match s.status with
  | .running => true
  | .halted => true
  | .faulted _ _ => false

/-- A safe run of at most `k` steps: it takes no fault, and it stops early only by halting. A fault is
terminal, so the state after the steps tells. -/
def State.safeFor (k : Nat) (s : State) : Bool :=
  (runSteps k s).unfaulted

/-- Every register outside `rs` holds in `t` what it holds in `s`. -/
def State.sameRegsBut (rs : List Reg) (s t : State) : Prop :=
  ∀ r, r ∉ rs → t.reg r = s.reg r

/-- Every word of memory outside the addresses `as` reads in `t` as in `s`. -/
def State.sameMemoryBut (as : List Nat) (s t : State) : Prop :=
  ∀ x, x ∉ as → t.mem.read x = s.mem.read x

/-- The state a fault leaves (60_exceptions.md R272), written out: `s` with the status FAULTED(code,
record), the record holding the pc, the fetched word or none, and the info. -/
def State.faultedWith (s : State) (c : FaultCode) (info : Nat) : State :=
  { s with
    status := .faulted c
      { pc := s.pc, word := if s.pc < 4000 then some (s.mem.read s.pc) else none, info := info } }

/-- The state a taken jump that saves leaves (45_jump.md R200), before the sequencer's increment. -/
def State.jumpedTo (s : State) (m : Nat) : State :=
  { s with rJ := mkword .plus (s.pc + 1), pc := m }

/-- A step or an instruction either took a fault, and changed nothing but the status, or left the
status alone. -/
def State.statusFrame (s t : State) : Prop :=
  t.status = s.status ∨ ∃ c r, t = { s with status := .faulted c r }

/-! ### Instruction words, byte by byte -/

/-- The number F is a valid field specification (30_encoding.md R79). -/
def validField (f : Nat) : Prop := f / 8 ≤ f % 8 ∧ f % 8 ≤ 5

/-- The opcodes of the FIELD class (30_encoding.md R80); they are the instructions that address memory
(20_memory.md R52). -/
def fieldOpcode (c : Nat) : Prop := (1 ≤ c ∧ c ≤ 4) ∨ (8 ≤ c ∧ c ≤ 33) ∨ (56 ≤ c ∧ c ≤ 63)

/-- The address field of a word as a number, `b[0]·256 + b[1]` (30_encoding.md R72). -/
def wordAddress (w : Word) : Nat := w.b0.toNat * 256 + w.b1.toNat

/-- Bytes 3 and 4 of a register as a number (30_encoding.md R75). -/
def lowTwoBytes (w : Word) : Nat := w.b3.toNat * 256 + w.b4.toNat

/-- The resolved address of a word (30_encoding.md R75, R76), from the word's own bytes. -/
def resolvedAddress (s : State) (w : Word) : Nat :=
  wordAddress w +
    match w.b2.toNat with
    | 1 => lowTwoBytes s.rI1
    | 2 => lowTwoBytes s.rI2
    | 3 => lowTwoBytes s.rI3
    | 4 => lowTwoBytes s.rI4
    | 5 => lowTwoBytes s.rI5
    | 6 => lowTwoBytes s.rI6
    | _ => 0

/-- The number of an index register, 1 to 6. -/
def indexNumber : IndexReg → Nat
  | .i1 => 1
  | .i2 => 2
  | .i3 => 3
  | .i4 => 4
  | .i5 => 5
  | .i6 => 6

/-- The index byte of a selector, 0 for none (30_encoding.md R73). -/
def selectorNumber : Option IndexReg → Nat
  | none => 0
  | some i => indexNumber i

/-- Every word with opcode byte `c` and a valid F decodes to the FIELD-class instruction `k`, with the
word's own sign, address, index and field (30_encoding.md R70, R72, R73, R77). -/
def FieldCoded (k : Operand → FieldSpec → Instr) (c : Nat) : Prop :=
  ∀ (w : Word) (i : Option IndexReg), w.b2.toNat = selectorNumber i → w.b4.toNat = c →
    validField w.b3.toNat →
    decode w = .ok (k ⟨w.sign, BitVec.ofNat 16 (wordAddress w), i⟩
      ⟨w.b3.toNat / 8, w.b3.toNat % 8⟩)

/-- Every word with opcode byte `c` and F byte `f` decodes to the SUB-class instruction `k`, with the
word's own sign, address and index (30_encoding.md R70, R72, R73, R80). -/
def SubCoded (k : Operand → Instr) (c f : Nat) : Prop :=
  ∀ (w : Word) (i : Option IndexReg), w.b2.toNat = selectorNumber i → w.b4.toNat = c →
    w.b3.toNat = f → decode w = .ok (k ⟨w.sign, BitVec.ofNat 16 (wordAddress w), i⟩)

/-! ### When a step faults -/

/-- The cause of each fault, with its info, read from the state and the bytes of the word at the pc
(60_exceptions.md R270); a later cause excludes the earlier ones, which is the priority of R280. -/
def FaultCause (s : State) (code : FaultCode) (info : Nat) : Prop :=
  let w := s.mem.read s.pc
  let f := w.b3.toNat
  let c := w.b4.toNat
  let m := resolvedAddress s w
  let v := (fieldValue (s.mem.read m) ⟨f / 8, f % 8⟩).natAbs
  let decodes := s.pc ≤ 3999 ∧ w.b2.toNat ≤ 6 ∧ fieldOpcode c ∧ validField f
  match code with
  | .fetchOutOfRange => 3999 < s.pc ∧ info = s.pc
  | .invalidIndex => s.pc ≤ 3999 ∧ 7 ≤ w.b2.toNat ∧ info = w.b2.toNat
  | .fieldSpecOutOfRange =>
    s.pc ≤ 3999 ∧ w.b2.toNat ≤ 6 ∧ fieldOpcode c ∧ ¬ validField f ∧ info = f
  | .addressOutOfRange => decodes ∧ 3999 < m ∧ info = m
  | .invalidFieldSpec =>
    decodes ∧ m ≤ 3999 ∧ ((9 ≤ c ∧ c ≤ 14) ∨ (17 ≤ c ∧ c ≤ 22)) ∧
      f ∈ [9, 10, 11, 18, 19, 27] ∧ info = f
  | .arithmeticDomainFault => decodes ∧ m ≤ 3999 ∧ 1 ≤ c ∧ c ≤ 4 ∧ f = 0 ∧ info = 0
  | .quotientOverflow =>
    decodes ∧ m ≤ 3999 ∧ c = 4 ∧ f ≠ 0 ∧ v ≠ 0 ∧ v ≤ mag s.rA ∧
      info = (mag s.rA * 256 ^ 5 + mag s.rX) / v

/-! ### When a jump is taken, by the opcode and F of its word -/

/-- The opcode and F of the jumps (45_jump.md R201 to R210, R212 to R229). -/
def jumpCode (c f : Nat) : Prop := (c = 39 ∧ f ≤ 9) ∨ (40 ≤ c ∧ c ≤ 47 ∧ f ≤ 5)

/-- The six-way condition table (45_jump.md R211), over the two outcomes LESS and EQUAL. -/
def jumpCondition (less equal : Prop) : Nat → Prop
  | 0 => less
  | 1 => equal
  | 2 => ¬ less ∧ ¬ equal
  | 3 => ¬ less
  | 4 => ¬ equal
  | 5 => less ∨ equal
  | _ => False

/-- The register a register jump tests: rA for opcode 40, rI1 to rI6 for 41 to 46, rX for 47. -/
def testedRegister (s : State) : Nat → Word
  | 40 => s.rA
  | 41 => s.rI1
  | 42 => s.rI2
  | 43 => s.rI3
  | 44 => s.rI4
  | 45 => s.rI5
  | 46 => s.rI6
  | _ => s.rX

/-- The jump with opcode 39 and this F is taken (R201 to R210): always, on OV, or on CMP with `k = F - 4`. -/
def flagJumpTaken (s : State) : Nat → Prop
  | 0 => True
  | 1 => True
  | 2 => s.ov = true
  | 3 => s.ov = false
  | k + 4 => jumpCondition (s.cmp = .less) (s.cmp = .equal) k

/-- The jump with opcode `c` and F `f` is taken. A register jump compares with zero (R199): `-0` is LESS
than it, as every negative word is, and only `+0` is EQUAL to it. -/
def jumpTaken (s : State) (c f : Nat) : Prop :=
  if c = 39 then flagJumpTaken s f
  else jumpCondition ((testedRegister s c).sign = .minus) (testedRegister s c = Word.zero) f

/-! ### Who writes what -/

/-- The registers an instruction may write, row by row of the access summary in 10_state.md section 2
(R24 to R27). -/
def mayWrite : Instr → List Reg
  | .add _ _ | .sub _ _ | .lda _ _ | .ldan _ _ | .enta _ | .enna _ | .inca _ | .deca _ | .sla _
  | .sra _ | .slc _ | .src _ => [.A]
  | .mul _ _ | .div _ _ | .slax _ | .srax _ => [.A, .X]
  | .ldx _ _ | .ldxn _ _ | .entx _ | .ennx _ | .incx _ | .decx _ => [.X]
  | .ld1 _ _ | .ld1n _ _ | .ent1 _ | .enn1 _ | .inc1 _ | .dec1 _ => [.I1]
  | .ld2 _ _ | .ld2n _ _ | .ent2 _ | .enn2 _ | .inc2 _ | .dec2 _ => [.I2]
  | .ld3 _ _ | .ld3n _ _ | .ent3 _ | .enn3 _ | .inc3 _ | .dec3 _ => [.I3]
  | .ld4 _ _ | .ld4n _ _ | .ent4 _ | .enn4 _ | .inc4 _ | .dec4 _ => [.I4]
  | .ld5 _ _ | .ld5n _ _ | .ent5 _ | .enn5 _ | .inc5 _ | .dec5 _ => [.I5]
  | .ld6 _ _ | .ld6n _ _ | .ent6 _ | .enn6 _ | .inc6 _ | .dec6 _ => [.I6]
  | .jmp _ | .jov _ | .jnov _ | .jl _ | .je _ | .jg _ | .jge _ | .jne _ | .jle _ | .jan _
  | .jaz _ | .jap _ | .jann _ | .janz _ | .janp _ | .j1n _ | .j1z _ | .j1p _ | .j1nn _
  | .j1nz _ | .j1np _ | .j2n _ | .j2z _ | .j2p _ | .j2nn _ | .j2nz _ | .j2np _ | .j3n _
  | .j3z _ | .j3p _ | .j3nn _ | .j3nz _ | .j3np _ | .j4n _ | .j4z _ | .j4p _ | .j4nn _
  | .j4nz _ | .j4np _ | .j5n _ | .j5z _ | .j5p _ | .j5nn _ | .j5nz _ | .j5np _ | .j6n _
  | .j6z _ | .j6p _ | .j6nn _ | .j6nz _ | .j6np _ | .jxn _ | .jxz _ | .jxp _ | .jxnn _
  | .jxnz _ | .jxnp _ => [.J]
  | .sta _ _ | .stx _ _ | .stj _ _ | .stz _ _ | .st1 _ _ | .st2 _ _ | .st3 _ _ | .st4 _ _
  | .st5 _ _ | .st6 _ _ | .cmpa _ _ | .cmpx _ _ | .cmp1 _ _ | .cmp2 _ _ | .cmp3 _ _ | .cmp4 _ _
  | .cmp5 _ _ | .cmp6 _ _ | .nop _ _ | .jsj _ | .hlt _ => []
  | .nopUnmapped _ _ _ => []

end Sys2Proof.Machine
end

