-- ==== Sys2Proof/Certificates/Slice0/Obligations.lean ====
section
/-! DEFINITION. The statements for the provers. Each formalises a numbered rule of spec/, named in its
docstring, or says where it rests on a choice of the model. `s.effAddr a` is the resolved address M;
`s.faultedWith c n` is the state that the fault with code `c` and info `n` leaves (R272). -/

open Sys2Proof Sys2Proof.Machine

/-! ### Launch -/

/-- R300 to R304: a CORE holds after construction exactly what it was constructed from, and runs; a
`pc0` above 3999 is accepted, and its first step faults with FetchOutOfRange. -/
def Obligations.LaunchHoldsItsInputs : Prop :=
  ∀ (image : List Word) (pc0 : Nat) (periph0 : Vector Byte 20) (regs0 : Reg → Word) (ov0 : Bool)
    (cmp0 : Cmp), image.length = 4000 →
    let s := State.launch image pc0 periph0 regs0 ov0 cmp0
    (∀ (k : Nat) (h : k < image.length), s.mem.read k = image[k]) ∧ s.pc = pc0 ∧
      s.status = .running ∧ (∀ r, s.reg r = regs0 r) ∧ s.ov = ov0 ∧ s.cmp = cmp0 ∧
      s.periph = periph0 ∧
      (3999 < pc0 → step s = .next (s.faultedWith .fetchOutOfRange pc0))

/-- The model's choice, logs 2 to 6: `State.reset` is the launch with the values R301 and R302 suggest
for the registers and flags, `pc0 = 0`, an image of `+0` words and a zero peripheral area. -/
def Obligations.ResetIsTheSuggestedLaunch : Prop :=
  State.reset = State.launch (List.replicate 4000 Word.zero) 0 (Vector.replicate 20 0)
    (fun _ => Word.zero) false .equal

/-! ### Encoding -/

/-- A word of each family, written out from the encoding tables, decodes to its instruction. -/
def Obligations.WrittenOutWordsDecode : Prop :=
  decode ⟨.plus, 0, 100, 0, 5, 1⟩ = .ok (.add ⟨.plus, 100, none⟩ ⟨0, 5⟩) ∧
  decode ⟨.plus, 0, 60, 0, 37, 9⟩ = .ok (.ld1 ⟨.plus, 60, none⟩ ⟨4, 5⟩) ∧
  decode ⟨.plus, 0, 13, 0, 2, 32⟩ = .ok (.stj ⟨.plus, 13, none⟩ ⟨0, 2⟩) ∧
  decode ⟨.plus, 0, 20, 0, 37, 63⟩ = .ok (.cmpx ⟨.plus, 20, none⟩ ⟨4, 5⟩) ∧
  decode ⟨.plus, 255, 255, 1, 2, 49⟩ = .ok (.ent1 ⟨.plus, 65535, some .i1⟩) ∧
  decode ⟨.minus, 0, 1, 0, 1, 54⟩ = .ok (.dec6 ⟨.minus, 1, none⟩) ∧
  decode ⟨.plus, 15, 160, 0, 0, 39⟩ = .ok (.jmp ⟨.plus, 4000, none⟩) ∧
  decode ⟨.plus, 0, 8, 0, 3, 43⟩ = .ok (.j3nn ⟨.plus, 8, none⟩) ∧
  decode ⟨.plus, 0, 3, 0, 2, 6⟩ = .ok (.slax ⟨.plus, 3, none⟩) ∧
  decode ⟨.plus, 0, 0, 0, 2, 5⟩ = .ok (.hlt ⟨.plus, 0, none⟩) ∧
  decode ⟨.plus, 0, 0, 0, 0, 0⟩ = .ok (.nop ⟨.plus, 0, none⟩ 0) ∧
  decode ⟨.plus, 255, 255, 6, 255, 200⟩ = .ok (.nopUnmapped ⟨.plus, 65535, some .i6⟩ 200 255) ∧
  decode ⟨.plus, 0, 0, 7, 0, 1⟩ = .error (.invalidIndex 7) ∧
  decode ⟨.plus, 0, 50, 0, 44, 8⟩ = .error (.fieldSpecOutOfRange 44)

/-- Decoding the encoding of any well-formed instruction gives the instruction back, with every operand:
the encoder and the decoder are both written from 30_encoding.md section 4. -/
def Obligations.DecodeOfEncode : Prop :=
  ∀ i : Instr, i.wellFormed = true → decode (encode i) = .ok i

/-- Every word that decodes, decodes to a well-formed instruction whose encoding is that very word: no
two words share a meaning, and no bit of a word is dropped (30_encoding.md R70 to R87). -/
def Obligations.EncodeOfDecode : Prop :=
  ∀ (w : Word) (i : Instr), decode w = .ok i → i.wellFormed = true ∧ encode i = w

/-- R74, R79, R87: a word is refused with `invalidIndex` exactly when its selector is 7 or more, whatever
its opcode; with `fieldSpecOutOfRange` exactly when the selector is fine, the opcode is of the FIELD
class and F is no valid field specification; and every other word decodes. -/
def Obligations.DecodeRefusesExactly : Prop :=
  ∀ w : Word,
    (7 ≤ w.b2.toNat ↔ decode w = .error (.invalidIndex w.b2.toNat)) ∧
    ((w.b2.toNat ≤ 6 ∧ fieldOpcode w.b4.toNat ∧ ¬ validField w.b3.toNat) ↔
      decode w = .error (.fieldSpecOutOfRange w.b3.toNat)) ∧
    ((w.b2.toNat ≤ 6 ∧ (fieldOpcode w.b4.toNat → validField w.b3.toNat)) ↔
      ∃ i, decode w = .ok i)

/-- R82, R251: opcode 0, and every pair of opcode and F that no row of the opcode map selects, is the
no-operation: it changes nothing at execute, and a step at an address below 4000 only increments the
pc. A selector of 7 or more still faults. -/
def Obligations.UnmappedPairsAreNoOperations : Prop :=
  (∀ (a : Operand) (c f : Byte) (s : State),
    exec (.nop a f) s = .next s ∧ exec (.nopUnmapped a c f) s = .next s) ∧
  ∀ (w : Word) (s : State),
    w.b4 = 0 ∨ unmappedPair w.b4 w.b3 = true →
    (7 ≤ w.b2.toNat → decode w = .error (.invalidIndex w.b2.toNat)) ∧
    (w.b2.toNat ≤ 6 → ∃ i, decode w = .ok i ∧ exec i s = .next s ∧
      (i = .nop i.operand w.b3 ∨ i = .nopUnmapped i.operand w.b4 w.b3) ∧
      (s.status = .running → s.pc ≤ 3999 → s.mem.read s.pc = w →
        step s = .next { s with pc := s.pc + 1 }))

/-- R72, R73, R75: the address field and the index offset, both unsigned. That the resolved address is
their sum, does not wrap and is at most 131070 is R76, which the spec marks [derived: from rules R72 and
R75]. -/
def Obligations.ResolvedAddressIsUnsignedSum : Prop :=
  ∀ (w : Word) (i : Instr) (s : State), decode w = .ok i →
    w.b2.toNat = selectorNumber i.operand.index ∧ i.operand.sign = w.sign ∧
    i.operand.addr.toNat = w.b0.toNat * 256 + w.b1.toNat ∧
    s.effAddr i.operand = w.b0.toNat * 256 + w.b1.toNat +
      (match i.operand.index with
        | none => 0
        | some x => (s.reg (indexReg x)).b3.toNat * 256 + (s.reg (indexReg x)).b4.toNat) ∧
    s.effAddr i.operand ≤ 131070

/-- R77, R78, R79: how a byte F splits into L and R, which are valid, and the adjusted form of the valid
ones. That the only valid sign-only window is F = 0 is the spec's inference, marked [derived] in R79. -/
def Obligations.FieldSpecificationForms : Prop :=
  ∀ b : Byte,
    (splitField b).left = b.toNat / 8 ∧ (splitField b).right = b.toNat % 8 ∧
    ((splitField b).valid = true ↔
      (splitField b).left ≤ 5 ∧ (splitField b).right ≤ 5 ∧
        (splitField b).left ≤ (splitField b).right) ∧
    ((splitField b).valid = true →
      (zeroIncluded (splitField b) = true ↔ (splitField b).left = 0) ∧
      (onlyZero (splitField b) = true ↔ (splitField b).right = 0) ∧
      (onlyZero (splitField b) = true ↔ b = 0) ∧
      lo (splitField b) = max (splitField b).left 1 - 1 ∧
      hi (splitField b) = max (splitField b).right 1 - 1 ∧
      lo (splitField b) ≤ hi (splitField b) ∧ hi (splitField b) ≤ 4 ∧
      width (splitField b) = hi (splitField b) - lo (splitField b) + 1)

/-! ### Words and the field unit -/

/-- R21, R22: `mkword(s, n)` has the sign `s` and the magnitude `n`, every word is made from its own sign
and magnitude, and the value of a word is its magnitude with its sign. -/
def Obligations.MakeWordInvertsMagnitude : Prop :=
  (∀ (s : Sign) (n : Nat), n < 256 ^ 5 → (mkword s n).sign = s ∧ mag (mkword s n) = n) ∧
  (∀ w : Word, mag w < 2 ^ 40 ∧ mkword w.sign (mag w) = w) ∧
  (∀ w : Word, mag w = w.b0.toNat * 256 ^ 4 + w.b1.toNat * 256 ^ 3 + w.b2.toNat * 256 ^ 2 +
    w.b3.toNat * 256 + w.b4.toNat) ∧
  (∀ w : Word, val w = if w.sign = .plus then (mag w : Int) else -(mag w : Int))

/-- R100: the field value is the big-endian sum of the window's bytes, negated when the window includes
the sign and the word is negative, and 0 for a sign-only window. -/
def Obligations.FieldValueIsWindowSum : Prop :=
  ∀ (w : Word) (f : FieldSpec), f.valid = true →
    (f.right = 0 → fieldValue w f = 0) ∧
    (f.right ≠ 0 →
      let u := ∑ k ∈ Finset.Icc (lo f) (hi f), (w.byte k).toNat * 256 ^ (hi f - k)
      u < 256 ^ width f ∧
      fieldValue w f = if f.left = 0 ∧ w.sign = .minus then -(u : Int) else u)

/-- R101, R102, R104: negation flips the sign only; a copy moves the window's bytes in place; a store
moves the low-order bytes, right-justified, into the window; the sign moves only with position 0, and
everything outside the window stays. -/
def Obligations.CopyAndStoreMoveWindows : Prop :=
  ∀ (src dst : Word) (f : FieldSpec), f.valid = true →
    (negate src).sign = src.sign.flip ∧
    (∀ k < 5, (negate src).byte k = src.byte k) ∧
    (copyWordFields src dst f).sign = (if f.left = 0 then src.sign else dst.sign) ∧
    (storeOperation src dst f).sign = (if f.left = 0 then src.sign else dst.sign) ∧
    (f.right = 0 → ∀ k < 5, (copyWordFields src dst f).byte k = dst.byte k ∧
      (storeOperation src dst f).byte k = dst.byte k) ∧
    (f.right ≠ 0 →
      (∀ k, lo f ≤ k → k ≤ hi f → (copyWordFields src dst f).byte k = src.byte k) ∧
      (∀ j < width f,
        (storeOperation src dst f).byte (lo f + j) = src.byte (5 - width f + j)) ∧
      (∀ k < 5, k < lo f ∨ hi f < k → (copyWordFields src dst f).byte k = dst.byte k ∧
        (storeOperation src dst f).byte k = dst.byte k))

/-- R103: the copy into an index register raises InvalidFieldSpec, with F as info, exactly for F = 9, 10,
11, 18, 19 and 27, and otherwise is the copy of R102. -/
def Obligations.IndexLoadFieldCheck : Prop :=
  ∀ (src dst : Word) (f : FieldSpec), f.valid = true →
    (8 * f.left + f.right ∈ [9, 10, 11, 18, 19, 27] →
      copyWordFieldsI src dst f = .error ⟨.invalidFieldSpec, 8 * f.left + f.right⟩) ∧
    (8 * f.left + f.right ∉ [9, 10, 11, 18, 19, 27] →
      copyWordFieldsI src dst f = .ok (copyWordFields src dst f))

/-! ### The arithmetic unit and the shifter -/

/-- R105: a sum replaces the window by its magnitude modulo the window's capacity, reports what did not
fit, takes the sum's sign only with position 0, and keeps every other byte of the first word; a sign-only
window raises ArithmeticDomainFault. -/
def Obligations.AdderIsExactModuloWindow : Prop :=
  ∀ (w1 w2 : Word) (f : FieldSpec), f.valid = true →
    (f.right = 0 → addWords w1 w2 f = .error ⟨.arithmeticDomainFault, 8 * f.left + f.right⟩) ∧
    (f.right ≠ 0 →
      let sum := fieldValue w1 f + fieldValue w2 f
      ∃ res, addWords w1 w2 f = .ok (res, decide (256 ^ width f ≤ sum.natAbs)) ∧
        windowMag res (lo f) (width f) = sum.natAbs % 256 ^ width f ∧
        (∀ k < 5, k < lo f ∨ hi f < k → res.byte k = w1.byte k) ∧
        (f.left ≠ 0 → res.sign = w1.sign) ∧
        (f.left = 0 → 0 < sum → res.sign = .plus) ∧
        (f.left = 0 → sum < 0 → res.sign = .minus) ∧
        (f.left = 0 → sum = 0 → res.sign = Config.zeroResultSign))

/-- R106: subtracting is adding the negated word, and under a window without position 0 the negation is
not seen, so the window magnitudes add. -/
def Obligations.UnsignedWindowSubtractionAdds : Prop :=
  ∀ (w1 w2 : Word) (f : FieldSpec), f.valid = true → f.left ≠ 0 →
    ∃ res ov, addWords w1 (negate w2) f = .ok (res, ov) ∧ addWords w1 w2 f = .ok (res, ov) ∧
      windowMag res (lo f) (width f) + (if ov then 256 ^ width f else 0) =
        windowMag w1 (lo f) (width f) + windowMag w2 (lo f) (width f)

/-- R107: the two halves hold the exact product of the whole first word and the window of the second;
both take the product's sign only with position 0; a sign-only window raises ArithmeticDomainFault. -/
def Obligations.MultiplierIsExact : Prop :=
  ∀ (w1 w2 : Word) (f : FieldSpec), f.valid = true →
    (f.right = 0 →
      multiplyWords w1 w2 f = .error ⟨.arithmeticDomainFault, 8 * f.left + f.right⟩) ∧
    (f.right ≠ 0 →
      let p := val w1 * fieldValue w2 f
      ∃ u l, multiplyWords w1 w2 f = .ok (u, l) ∧
        mag u * 256 ^ 5 + mag l = p.natAbs ∧ u.sign = l.sign ∧
        (f.left ≠ 0 → u.sign = Config.defaultSign) ∧
        (f.left = 0 → 0 < p → u.sign = .plus) ∧
        (f.left = 0 → p < 0 → u.sign = .minus) ∧
        (f.left = 0 → p = 0 → u.sign = Config.zeroResultSign))

/-- R108: quotient and remainder rebuild the ten-byte dividend; the remainder takes the sign of the upper
half and the quotient the sign of the comparison; division by zero gives two zero words; a quotient too
wide for a word raises QuotientOverflow, exactly when the upper half reaches the divisor; and the sign of
the lower half never matters. -/
def Obligations.DividerIsExact : Prop :=
  ∀ (h l d : Word) (f : FieldSpec), f.valid = true →
    (f.right = 0 →
      divideWords h l d f = .error ⟨.arithmeticDomainFault, 8 * f.left + f.right⟩) ∧
    (f.right ≠ 0 →
      let v := (fieldValue d f).natAbs
      let dividend := mag h * 256 ^ 5 + mag l
      (v = 0 → divideWords h l d f =
        .ok (mkword Config.defaultSign 0, mkword Config.defaultSign 0, true)) ∧
      (v ≠ 0 → v ≤ mag h → 256 ^ 5 ≤ dividend / v ∧
        divideWords h l d f = .error ⟨.quotientOverflow, dividend / v⟩) ∧
      (v ≠ 0 → mag h < v → ∃ q r, divideWords h l d f = .ok (q, r, false) ∧
        mag q * v + mag r = dividend ∧ mag r < v ∧ r.sign = h.sign ∧
        q.sign = if f.left = 0 then (if h.sign = d.sign then .plus else .minus)
          else Config.defaultSign)) ∧
    divideWords h (negate l) d f = divideWords h l d f

/-- R109: a sign-only window compares equal; differing signs decide under a window with position 0; else
the words compare as the magnitudes of their windows do. -/
def Obligations.ComparatorOrdersWindows : Prop :=
  ∀ (w1 w2 : Word) (f : FieldSpec), f.valid = true →
    (f.right = 0 → compareWords w1 w2 f = .equal) ∧
    (f.right ≠ 0 → f.left = 0 → w1.sign ≠ w2.sign →
      compareWords w1 w2 f = if w1.sign = .plus then .greater else .less) ∧
    (f.right ≠ 0 → f.left ≠ 0 ∨ w1.sign = w2.sign →
      let m1 := windowMag w1 (lo f) (width f)
      let m2 := windowMag w2 (lo f) (width f)
      compareWords w1 w2 f = if m2 < m1 then .greater else if m1 < m2 then .less else .equal)

/-- R110, R111: the single-word shifts move whole bytes, keep the sign, and as numbers multiply modulo
256^5 and divide by a power of 256; the cyclic ones act modulo 5 and undo each other. -/
def Obligations.SingleShiftsScaleAndRotate : Prop :=
  ∀ (w : Word) (n : Nat),
    (∀ cyc, (shiftLeft w n cyc).sign = w.sign ∧ (shiftRight w n cyc).sign = w.sign) ∧
    mag (shiftLeft w n false) = mag w * 256 ^ n % 256 ^ 5 ∧
    mag (shiftRight w n false) = mag w / 256 ^ n ∧
    (∀ k < 5, (shiftLeft w n true).byte k = w.byte ((k + n) % 5)) ∧
    (∀ k < 5, (shiftRight w n true).byte ((k + n) % 5) = w.byte k) ∧
    shiftRight (shiftLeft w n true) n true = w ∧
    shiftLeft w n true = shiftLeft w (n % 5) true

/-- R112, R113: the double-word shifts move the ten bytes as one number, multiplied modulo 256^10 or
divided by a power of 256, and keep both signs. -/
def Obligations.DoubleShiftsScaleThePair : Prop :=
  ∀ (h l : Word) (n : Nat),
    let pair := mag h * 256 ^ 5 + mag l
    (doubleShiftLeft h l n).1.sign = h.sign ∧ (doubleShiftLeft h l n).2.sign = l.sign ∧
    mag (doubleShiftLeft h l n).1 * 256 ^ 5 + mag (doubleShiftLeft h l n).2 =
      pair * 256 ^ n % 256 ^ 10 ∧
    (doubleShiftRight h l n).1.sign = h.sign ∧ (doubleShiftRight h l n).2.sign = l.sign ∧
    mag (doubleShiftRight h l n).1 * 256 ^ 5 + mag (doubleShiftRight h l n).2 = pair / 256 ^ n

/-! ### What each instruction does -/

/-- R140, R141: ADD and SUB. -/
def Obligations.AddAndSubtract : Prop :=
  FieldCoded .add 1 ∧ FieldCoded .sub 2 ∧
  ∀ (a : Operand) (f : FieldSpec) (s : State), f.valid = true →
    (3999 < s.effAddr a → ∀ i ∈ [Instr.add a f, .sub a f],
      exec i s = .next (s.faultedWith .addressOutOfRange (s.effAddr a))) ∧
    (s.effAddr a ≤ 3999 → f.right = 0 → ∀ i ∈ [Instr.add a f, .sub a f],
      exec i s = .next (s.faultedWith .arithmeticDomainFault 0)) ∧
    (s.effAddr a ≤ 3999 → f.right ≠ 0 →
      (∃ res ov, addWords s.rA (s.mem.read (s.effAddr a)) f = .ok (res, ov) ∧
        exec (.add a f) s = .next { s with rA := res, ov := ov }) ∧
      (∃ res ov, addWords s.rA (negate (s.mem.read (s.effAddr a))) f = .ok (res, ov) ∧
        exec (.sub a f) s = .next { s with rA := res, ov := ov }))

/-- R142: MUL multiplies rA by the negated memory word and leaves OV as it was. -/
def Obligations.MultiplyNegatesItsOperand : Prop :=
  FieldCoded .mul 3 ∧
  ∀ (a : Operand) (f : FieldSpec) (s : State), f.valid = true →
    (3999 < s.effAddr a →
      exec (.mul a f) s = .next (s.faultedWith .addressOutOfRange (s.effAddr a))) ∧
    (s.effAddr a ≤ 3999 → f.right = 0 →
      exec (.mul a f) s = .next (s.faultedWith .arithmeticDomainFault 0)) ∧
    (s.effAddr a ≤ 3999 → f.right ≠ 0 →
      ∃ u l, multiplyWords s.rA (negate (s.mem.read (s.effAddr a))) f = .ok (u, l) ∧
        exec (.mul a f) s = .next { s with rA := u, rX := l } ∧
        (f.left = 0 → 0 < val s.rA * fieldValue (s.mem.read (s.effAddr a)) f →
          u.sign = .minus ∧ l.sign = .minus))

/-- R143: DIV, with the quotient in rA and the remainder in rX; OV is set exactly on division by zero. -/
def Obligations.DivideGivesQuotientAndRemainder : Prop :=
  FieldCoded .div 4 ∧
  ∀ (a : Operand) (f : FieldSpec) (s : State), f.valid = true →
    let d := s.mem.read (s.effAddr a)
    let v := (fieldValue d f).natAbs
    let dividend := mag s.rA * 256 ^ 5 + mag s.rX
    let qs := if f.left = 0 then (if s.rA.sign = d.sign then Sign.plus else Sign.minus)
      else Config.defaultSign
    (3999 < s.effAddr a →
      exec (.div a f) s = .next (s.faultedWith .addressOutOfRange (s.effAddr a))) ∧
    (s.effAddr a ≤ 3999 → f.right = 0 →
      exec (.div a f) s = .next (s.faultedWith .arithmeticDomainFault 0)) ∧
    (s.effAddr a ≤ 3999 → f.right ≠ 0 →
      (v = 0 → exec (.div a f) s =
        .next { s with
          rA := mkword Config.defaultSign 0, rX := mkword Config.defaultSign 0, ov := true }) ∧
      (v ≠ 0 → v ≤ mag s.rA →
        exec (.div a f) s = .next (s.faultedWith .quotientOverflow (dividend / v))) ∧
      (v ≠ 0 → mag s.rA < v → exec (.div a f) s =
        .next { s with
          rA := mkword qs (dividend / v), rX := mkword s.rA.sign (dividend % v), ov := false }))

/-- R150, R151, R153, R154: the loads of rA and rX, and their negative forms. -/
def Obligations.LoadsOfAccumulatorAndExtension : Prop :=
  FieldCoded .lda 8 ∧ FieldCoded .ldx 15 ∧ FieldCoded .ldan 16 ∧ FieldCoded .ldxn 23 ∧
  ∀ (a : Operand) (f : FieldSpec) (s : State), f.valid = true →
    let w := s.mem.read (s.effAddr a)
    (3999 < s.effAddr a → ∀ i ∈ [Instr.lda a f, .ldx a f, .ldan a f, .ldxn a f],
      exec i s = .next (s.faultedWith .addressOutOfRange (s.effAddr a))) ∧
    (s.effAddr a ≤ 3999 →
      exec (.lda a f) s = .next { s with rA := copyWordFields w s.rA f } ∧
      exec (.ldx a f) s = .next { s with rX := copyWordFields w s.rX f } ∧
      exec (.ldan a f) s = .next { s with rA := negate (copyWordFields w s.rA f) } ∧
      exec (.ldxn a f) s = .next { s with rX := negate (copyWordFields w s.rX f) })

/-- R152, R155: LD1 to LD6 and LD1N to LD6N, with the fault for the six windows an index register does
not take. -/
def Obligations.LoadsOfIndexRegisters : Prop :=
  (∀ x : IndexReg, FieldCoded (Instr.ldi x) (8 + indexNumber x) ∧
    FieldCoded (Instr.ldin x) (16 + indexNumber x)) ∧
  ∀ (x : IndexReg) (a : Operand) (f : FieldSpec) (s : State), f.valid = true →
    let w := s.mem.read (s.effAddr a)
    let r := indexReg x
    (3999 < s.effAddr a → ∀ i ∈ [Instr.ldi x a f, Instr.ldin x a f],
      exec i s = .next (s.faultedWith .addressOutOfRange (s.effAddr a))) ∧
    (s.effAddr a ≤ 3999 → 8 * f.left + f.right ∈ [9, 10, 11, 18, 19, 27] →
      ∀ i ∈ [Instr.ldi x a f, Instr.ldin x a f],
        exec i s = .next (s.faultedWith .invalidFieldSpec (8 * f.left + f.right))) ∧
    (s.effAddr a ≤ 3999 → 8 * f.left + f.right ∉ [9, 10, 11, 18, 19, 27] →
      exec (Instr.ldi x a f) s = .next (s.setReg r (copyWordFields w (s.reg r) f)) ∧
      exec (Instr.ldin x a f) s =
        .next (s.setReg r (negate (copyWordFields w (s.reg r) f))))

/-- R156 to R160: STA, STX, STi, STJ and STZ write the word at M and nothing else. -/
def Obligations.StoresWriteTheWordAtM : Prop :=
  FieldCoded .sta 24 ∧ FieldCoded .stx 31 ∧ FieldCoded .stj 32 ∧ FieldCoded .stz 33 ∧
  (∀ x : IndexReg, FieldCoded (Instr.sti x) (24 + indexNumber x)) ∧
  ∀ (x : IndexReg) (a : Operand) (f : FieldSpec) (s : State), f.valid = true →
    let m := s.effAddr a
    let put := fun src : Word =>
      { s with mem := s.mem.write m (storeOperation src (s.mem.read m) f) }
    (3999 < m →
      ∀ i ∈ [Instr.sta a f, .stx a f, .stj a f, .stz a f, Instr.sti x a f],
        exec i s = .next (s.faultedWith .addressOutOfRange m)) ∧
    (m ≤ 3999 →
      exec (.sta a f) s = .next (put s.rA) ∧ exec (.stx a f) s = .next (put s.rX) ∧
      exec (.stj a f) s = .next (put s.rJ) ∧ exec (.stz a f) s = .next (put Word.zero) ∧
      exec (Instr.sti x a f) s = .next (put (s.reg (indexReg x))) ∧
      (s.mem.wf = true → ∀ (src : Word) (y : Nat), (put src).mem.read y =
        if y = m then storeOperation src (s.mem.read m) f else s.mem.read y))

/-- R170 to R172: ENTA, ENTX and ENTi enter the immediate word `mkword(S, M)`. -/
def Obligations.EnterTheImmediateWord : Prop :=
  SubCoded .enta 48 2 ∧ SubCoded .entx 55 2 ∧
  (∀ x : IndexReg, SubCoded (Instr.enti x) (48 + indexNumber x) 2) ∧
  ∀ (x : IndexReg) (a : Operand) (s : State),
    (mkword a.sign (s.effAddr a)).b0 = 0 ∧ (mkword a.sign (s.effAddr a)).b1 = 0 ∧
    exec (.enta a) s = .next { s with rA := mkword a.sign (s.effAddr a) } ∧
    exec (.entx a) s = .next { s with rX := mkword a.sign (s.effAddr a) } ∧
    exec (Instr.enti x a) s = .next (s.setReg (indexReg x) (mkword a.sign (s.effAddr a)))

/-- R173 to R175: ENNA, ENNX and ENNi enter the negated immediate word if the machine has them, and change
nothing if not. `HAS_ENN` is open (R6), so both are stated. That a word with F = 3 decodes to ENN whatever
`HAS_ENN` is, and not to the no-operation as R81 says of a machine without ENN, is the model's choice, to
the same effect (DEDUCED: notes/assumptions/9.md). -/
def Obligations.EnterNegativeIfPresent : Prop :=
  SubCoded .enna 48 3 ∧ SubCoded .ennx 55 3 ∧
  (∀ x : IndexReg, SubCoded (Instr.enni x) (48 + indexNumber x) 3) ∧
  ∀ (x : IndexReg) (a : Operand) (s : State),
    (∃ tA tX tI, exec (.enna a) s = .next tA ∧ exec (.ennx a) s = .next tX ∧
      exec (Instr.enni x a) s = .next tI ∧
      (Config.hasEnn = true →
        tA = { s with rA := negate (mkword a.sign (s.effAddr a)) } ∧
        tX = { s with rX := negate (mkword a.sign (s.effAddr a)) } ∧
        tI = s.setReg (indexReg x) (negate (mkword a.sign (s.effAddr a)))) ∧
      (Config.hasEnn = false → tA = s ∧ tX = s ∧ tI = s))

/-- R176 to R181: INC adds and DEC subtracts the immediate word, over the whole register, and each assigns
OV; neither ever faults. -/
def Obligations.IncrementAndDecrement : Prop :=
  SubCoded .inca 48 0 ∧ SubCoded .incx 55 0 ∧ SubCoded .deca 48 1 ∧ SubCoded .decx 55 1 ∧
  (∀ x : IndexReg, SubCoded (Instr.inci x) (48 + indexNumber x) 0 ∧
    SubCoded (Instr.deci x) (48 + indexNumber x) 1) ∧
  ∀ (x : IndexReg) (a : Operand) (s : State),
    let w := mkword a.sign (s.effAddr a)
    let done := fun (i : Instr) (r : Reg) (w : Word) =>
      ∃ res ov, addWords (s.reg r) w ⟨0, 5⟩ = .ok (res, ov) ∧
        exec i s = .next ((s.setReg r res).setOv ov)
    done (.inca a) .A w ∧ done (.incx a) .X w ∧ done (Instr.inci x a) (indexReg x) w ∧
    done (.deca a) .A (negate w) ∧ done (.decx a) .X (negate w) ∧
    done (Instr.deci x a) (indexReg x) (negate w)

/-- R190 to R192: CMPA, CMPX and CMPi write CMP and nothing else; the field check of R103 is not theirs. -/
def Obligations.ComparesWriteTheFlag : Prop :=
  FieldCoded .cmpa 56 ∧ FieldCoded .cmpx 63 ∧
  (∀ x : IndexReg, FieldCoded (Instr.cmpi x) (56 + indexNumber x)) ∧
  ∀ (x : IndexReg) (a : Operand) (f : FieldSpec) (s : State), f.valid = true →
    let w := s.mem.read (s.effAddr a)
    (3999 < s.effAddr a → ∀ i ∈ [Instr.cmpa a f, .cmpx a f, Instr.cmpi x a f],
      exec i s = .next (s.faultedWith .addressOutOfRange (s.effAddr a))) ∧
    (s.effAddr a ≤ 3999 →
      exec (.cmpa a f) s = .next { s with cmp := compareWords s.rA w f } ∧
      exec (.cmpx a f) s = .next { s with cmp := compareWords s.rX w f } ∧
      exec (Instr.cmpi x a f) s =
        .next { s with cmp := compareWords (s.reg (indexReg x)) w f })

/-- R201 to R204: JMP, JSJ, JOV and JNOV; the overflow jumps test the old OV and always clear it. -/
def Obligations.UnconditionalAndOverflowJumps : Prop :=
  SubCoded .jmp 39 0 ∧ SubCoded .jsj 39 1 ∧ SubCoded .jov 39 2 ∧ SubCoded .jnov 39 3 ∧
  ∀ (a : Operand) (s : State),
    exec (.jmp a) s = .next (s.jumpedTo (s.effAddr a)) ∧
    exec (.jsj a) s = .next { s with pc := s.effAddr a } ∧
    exec (.jov a) s = .next (if s.ov then { s.jumpedTo (s.effAddr a) with ov := false }
      else { s with ov := false }) ∧
    exec (.jnov a) s = .next (if s.ov then { s with ov := false }
      else { s.jumpedTo (s.effAddr a) with ov := false })

/-- R205 to R210: the jumps on the comparison flag. -/
def Obligations.JumpsOnTheComparisonFlag : Prop :=
  SubCoded .jl 39 4 ∧ SubCoded .je 39 5 ∧ SubCoded .jg 39 6 ∧ SubCoded .jge 39 7 ∧
  SubCoded .jne 39 8 ∧ SubCoded .jle 39 9 ∧
  ∀ (a : Operand) (s : State),
    exec (.jl a) s = .next (if s.cmp = .less then s.jumpedTo (s.effAddr a) else s) ∧
    exec (.je a) s = .next (if s.cmp = .equal then s.jumpedTo (s.effAddr a) else s) ∧
    exec (.jg a) s = .next (if s.cmp = .greater then s.jumpedTo (s.effAddr a) else s) ∧
    exec (.jge a) s = .next (if s.cmp ≠ .less then s.jumpedTo (s.effAddr a) else s) ∧
    exec (.jne a) s = .next (if s.cmp ≠ .equal then s.jumpedTo (s.effAddr a) else s) ∧
    exec (.jle a) s = .next (if s.cmp ≠ .greater then s.jumpedTo (s.effAddr a) else s)

/-- R212 to R217: the jumps on rA. `-0` counts as negative, and only `+0` as zero. -/
def Obligations.JumpsOnTheAccumulator : Prop :=
  SubCoded .jan 40 0 ∧ SubCoded .jaz 40 1 ∧ SubCoded .jap 40 2 ∧ SubCoded .jann 40 3 ∧
  SubCoded .janz 40 4 ∧ SubCoded .janp 40 5 ∧
  ∀ (a : Operand) (s : State),
    let jump := fun (p : Prop) [Decidable p] =>
      (if p then s.jumpedTo (s.effAddr a) else s : State)
    let neg := s.rA.sign = .minus
    let zero := s.rA = Word.zero
    exec (.jan a) s = .next (jump neg) ∧
    exec (.jaz a) s = .next (jump zero) ∧
    exec (.jap a) s = .next (jump (¬ neg ∧ ¬ zero)) ∧
    exec (.jann a) s = .next (jump (¬ neg)) ∧
    exec (.janz a) s = .next (jump (¬ zero)) ∧
    exec (.janp a) s = .next (jump (neg ∨ zero))

/-- R218 to R223: the jumps on rX. -/
def Obligations.JumpsOnTheExtension : Prop :=
  SubCoded .jxn 47 0 ∧ SubCoded .jxz 47 1 ∧ SubCoded .jxp 47 2 ∧ SubCoded .jxnn 47 3 ∧
  SubCoded .jxnz 47 4 ∧ SubCoded .jxnp 47 5 ∧
  ∀ (a : Operand) (s : State),
    let jump := fun (p : Prop) [Decidable p] =>
      (if p then s.jumpedTo (s.effAddr a) else s : State)
    let neg := s.rX.sign = .minus
    let zero := s.rX = Word.zero
    exec (.jxn a) s = .next (jump neg) ∧
    exec (.jxz a) s = .next (jump zero) ∧
    exec (.jxp a) s = .next (jump (¬ neg ∧ ¬ zero)) ∧
    exec (.jxnn a) s = .next (jump (¬ neg)) ∧
    exec (.jxnz a) s = .next (jump (¬ zero)) ∧
    exec (.jxnp a) s = .next (jump (neg ∨ zero))

/-- R224 to R229: the jumps on rI1 to rI6, over the whole word of the register. -/
def Obligations.JumpsOnIndexRegisters : Prop :=
  (∀ x : IndexReg,
    SubCoded (Instr.jin x) (40 + indexNumber x) 0 ∧ SubCoded (Instr.jiz x) (40 + indexNumber x) 1 ∧
    SubCoded (Instr.jip x) (40 + indexNumber x) 2 ∧ SubCoded (Instr.jinn x) (40 + indexNumber x) 3 ∧
    SubCoded (Instr.jinz x) (40 + indexNumber x) 4 ∧
    SubCoded (Instr.jinp x) (40 + indexNumber x) 5) ∧
  ∀ (x : IndexReg) (a : Operand) (s : State),
    let jump := fun (p : Prop) [Decidable p] =>
      (if p then s.jumpedTo (s.effAddr a) else s : State)
    let neg := (s.reg (indexReg x)).sign = .minus
    let zero := s.reg (indexReg x) = Word.zero
    exec (Instr.jin x a) s = .next (jump neg) ∧
    exec (Instr.jiz x a) s = .next (jump zero) ∧
    exec (Instr.jip x a) s = .next (jump (¬ neg ∧ ¬ zero)) ∧
    exec (Instr.jinn x a) s = .next (jump (¬ neg)) ∧
    exec (Instr.jinz x a) s = .next (jump (¬ zero)) ∧
    exec (Instr.jinp x a) s = .next (jump (neg ∨ zero))

/-- R240 to R246: every shift takes its count from M, at any size: the non-cyclic ones clear every byte
from 5 or 10 on, and the cyclic ones rotate rA alone, by the count modulo 5. -/
def Obligations.ShiftsTakeTheirCountFromM : Prop :=
  SubCoded .sla 6 0 ∧ SubCoded .sra 6 1 ∧ SubCoded .slax 6 2 ∧ SubCoded .srax 6 3 ∧
  SubCoded .slc 6 4 ∧ SubCoded .src 6 5 ∧
  ∀ (a : Operand) (s : State),
    let n := s.effAddr a
    exec (.sla a) s = .next { s with rA := shiftLeft s.rA n false } ∧
    exec (.sra a) s = .next { s with rA := shiftRight s.rA n false } ∧
    exec (.slax a) s = .next { s with
      rA := (doubleShiftLeft s.rA s.rX n).1, rX := (doubleShiftLeft s.rA s.rX n).2 } ∧
    exec (.srax a) s = .next { s with
      rA := (doubleShiftRight s.rA s.rX n).1, rX := (doubleShiftRight s.rA s.rX n).2 } ∧
    exec (.slc a) s = .next { s with rA := shiftLeft s.rA n true } ∧
    exec (.src a) s = .next { s with rA := shiftRight s.rA n true } ∧
    n ≤ 131070 ∧
    shiftLeft s.rA n true = shiftLeft s.rA (n % 5) true ∧
    shiftRight s.rA n true = shiftRight s.rA (n % 5) true ∧
    (5 ≤ n → mag (shiftLeft s.rA n false) = 0 ∧ mag (shiftRight s.rA n false) = 0) ∧
    (10 ≤ n → mag (doubleShiftLeft s.rA s.rX n).1 = 0 ∧ mag (doubleShiftLeft s.rA s.rX n).2 = 0 ∧
      mag (doubleShiftRight s.rA s.rX n).1 = 0 ∧ mag (doubleShiftRight s.rA s.rX n).2 = 0)

/-- R250: HLT sets the pc to the sentinel, and the step that runs it halts there, with every register,
flag and memory word as it was. -/
def Obligations.HaltStopsAtTheSentinel : Prop :=
  SubCoded .hlt 5 2 ∧
  ∀ (a : Operand) (s : State),
    exec (.hlt a) s = .next { s with pc := 4000 } ∧
    (s.status = .running → s.pc ≤ 3999 → decode (s.mem.read s.pc) = .ok (.hlt a) →
      step s = .next { s with pc := 4000, status := .halted })

/-! ### Frames: what an instruction leaves unchanged -/

/-- ADD and SUB change rA and OV only; MUL changes rA and rX only; DIV changes rA, rX and OV only. -/
def Obligations.ArithmeticFrame : Prop :=
  ∀ (a : Operand) (f : FieldSpec) (s t : State),
    (∀ i ∈ [Instr.add a f, .sub a f, .mul a f, .div a f], exec i s = .next t →
      s.sameRegsBut [.A, .X] t ∧ t.cmp = s.cmp ∧ t.pc = s.pc ∧ s.sameMemoryBut [] t ∧
        t.periph = s.periph ∧ s.statusFrame t) ∧
    (∀ i ∈ [Instr.add a f, .sub a f], exec i s = .next t → t.rX = s.rX) ∧
    (exec (.mul a f) s = .next t → t.ov = s.ov)

/-- A load changes the register it names, and nothing else; it never touches memory or a flag. -/
def Obligations.LoadFrame : Prop :=
  ∀ (x : IndexReg) (a : Operand) (f : FieldSpec) (s t : State) (i : Instr) (r : Reg),
    ((i = .lda a f ∨ i = .ldan a f) ∧ r = .A ∨ (i = .ldx a f ∨ i = .ldxn a f) ∧ r = .X ∨
      (i = Instr.ldi x a f ∨ i = Instr.ldin x a f) ∧ r = indexReg x) →
    exec i s = .next t →
      s.sameRegsBut [r] t ∧ t.ov = s.ov ∧ t.cmp = s.cmp ∧ t.pc = s.pc ∧ s.sameMemoryBut [] t ∧
        t.periph = s.periph ∧ s.statusFrame t

/-- A store changes the word at M and nothing else. The premise is the canonical form of memory, which
every step keeps. -/
def Obligations.StoreFrame : Prop :=
  ∀ (x : IndexReg) (a : Operand) (f : FieldSpec) (s t : State), s.mem.wf = true →
    ∀ i ∈ [Instr.sta a f, .stx a f, .stj a f, .stz a f, Instr.sti x a f], exec i s = .next t →
      s.sameRegsBut [] t ∧ t.ov = s.ov ∧ t.cmp = s.cmp ∧ t.pc = s.pc ∧
        s.sameMemoryBut [s.effAddr a] t ∧ t.periph = s.periph ∧ s.statusFrame t

/-- A compare changes CMP and nothing else. -/
def Obligations.CompareFrame : Prop :=
  ∀ (x : IndexReg) (a : Operand) (f : FieldSpec) (s t : State),
    ∀ i ∈ [Instr.cmpa a f, .cmpx a f, Instr.cmpi x a f], exec i s = .next t →
      s.sameRegsBut [] t ∧ t.ov = s.ov ∧ t.pc = s.pc ∧ s.sameMemoryBut [] t ∧
        t.periph = s.periph ∧ s.statusFrame t

/-- ENT and ENN change their register only; INC and DEC change their register and OV only; none faults. -/
def Obligations.AddressTransferFrame : Prop :=
  ∀ (x : IndexReg) (a : Operand) (s t : State) (i : Instr) (r : Reg),
    (i ∈ [Instr.enta a, .enna a, .inca a, .deca a] ∧ r = .A ∨
      i ∈ [Instr.entx a, .ennx a, .incx a, .decx a] ∧ r = .X ∨
      i ∈ [Instr.enti x a, Instr.enni x a, Instr.inci x a, Instr.deci x a] ∧ r = indexReg x) →
    exec i s = .next t →
      s.sameRegsBut [r] t ∧ t.cmp = s.cmp ∧ t.pc = s.pc ∧ s.sameMemoryBut [] t ∧
        t.periph = s.periph ∧ t.status = s.status ∧
        (i ∈ [Instr.enta a, .enna a, .entx a, .ennx a, Instr.enti x a, Instr.enni x a] →
          t.ov = s.ov)

/-- A jump changes at most rJ and the pc, and OV if it is JOV or JNOV; JSJ leaves rJ; a jump not taken
changes no register. -/
def Obligations.JumpFrame : Prop :=
  ∀ (x : IndexReg) (a : Operand) (s t : State),
    ∀ i ∈ [Instr.jmp a, .jsj a, .jov a, .jnov a, .jl a, .je a, .jg a, .jge a, .jne a, .jle a,
        .jan a, .jaz a, .jap a, .jann a, .janz a, .janp a,
        .jxn a, .jxz a, .jxp a, .jxnn a, .jxnz a, .jxnp a,
        Instr.jin x a, Instr.jiz x a, Instr.jip x a, Instr.jinn x a, Instr.jinz x a,
        Instr.jinp x a], exec i s = .next t →
      s.sameRegsBut [.J] t ∧ t.cmp = s.cmp ∧ s.sameMemoryBut [] t ∧ t.periph = s.periph ∧
        t.status = s.status ∧ (i ≠ .jov a → i ≠ .jnov a → t.ov = s.ov) ∧
        (i = .jsj a → t.rJ = s.rJ) ∧
        (t.pc = s.pc ∧ t.rJ = s.rJ ∨ t.pc = s.effAddr a)

/-- SLA, SRA, SLC and SRC change the bytes of rA only; SLAX and SRAX those of rA and rX; no sign changes,
and no flag. -/
def Obligations.ShiftFrame : Prop :=
  ∀ (a : Operand) (s t : State),
    (∀ i ∈ [Instr.sla a, .sra a, .slc a, .src a, .slax a, .srax a], exec i s = .next t →
      s.sameRegsBut [.A, .X] t ∧ t.rA.sign = s.rA.sign ∧ t.rX.sign = s.rX.sign ∧ t.ov = s.ov ∧
        t.cmp = s.cmp ∧ t.pc = s.pc ∧ s.sameMemoryBut [] t ∧ t.periph = s.periph ∧
        t.status = s.status) ∧
    (∀ i ∈ [Instr.sla a, .sra a, .slc a, .src a], exec i s = .next t → t.rX = s.rX)

/-! ### The step and the whole machine -/

/-- R252, R253, R255: from RUNNING, a step faults at a pc above 3999 with nothing fetched; takes the
decoder's fault; or runs the decoded instruction, which always answers, and then halts at pc 4000, or
increments the pc, or leaves the faulted state as it is. -/
def Obligations.StepRunsTheDecodedInstruction : Prop :=
  ∀ s : State, s.status = .running →
    (3999 < s.pc → step s = .next (s.faultedWith .fetchOutOfRange s.pc)) ∧
    (∀ n, s.pc ≤ 3999 → decode (s.mem.read s.pc) = .error (.invalidIndex n) →
      step s = .next (s.faultedWith .invalidIndex n)) ∧
    (∀ n, s.pc ≤ 3999 → decode (s.mem.read s.pc) = .error (.fieldSpecOutOfRange n) →
      step s = .next (s.faultedWith .fieldSpecOutOfRange n)) ∧
    (∀ i, s.pc ≤ 3999 → decode (s.mem.read s.pc) = .ok i → ∃ u, exec i s = .next u ∧
      (u.status = .running → u.pc = 4000 → step s = .next { u with status := .halted }) ∧
      (u.status = .running → u.pc ≠ 4000 → step s = .next { u with pc := u.pc + 1 }) ∧
      (u.status ≠ .running → step s = .next u))

/-- R257: no step is defined from HALTED or FAULTED. That the model answers such a step with a fault of
its own, the only one there is, is its choice (log 10). -/
def Obligations.TerminalStatusesHaveNoStep : Prop :=
  ∀ s : State,
    (s.status = .halted → step s = .fault .stepAfterHalt) ∧
    (∀ c r, s.status = .faulted c r → step s = .fault (.stepAfterFault c r))

/-- R281, and the pc and word of R272's record: a step that faults changes nothing but the status, so the
pc still holds the address of the faulting instruction, and the record holds it with the fetched word, or
none when nothing was fetched. -/
def Obligations.FaultsArePrecise : Prop :=
  ∀ (s t : State) (c : FaultCode) (r : FaultRecord),
    step s = .next t → t.status = .faulted c r →
      t = { s with status := .faulted c r } ∧ r.pc = s.pc ∧
        (s.pc ≤ 3999 → r.word = some (s.mem.read s.pc)) ∧ (3999 < s.pc → r.word = none) ∧
        (c = .fetchOutOfRange ↔ 3999 < s.pc)

/-- R270, R280: the seven faults have the codes 1 to 7, and for every code and info a running machine
faults with that code and info exactly when the table's cause holds and no cause of higher priority does. -/
def Obligations.FaultTaxonomyIsExact : Prop :=
  [FaultCode.invalidIndex, .invalidFieldSpec, .arithmeticDomainFault, .addressOutOfRange,
    .fieldSpecOutOfRange, .fetchOutOfRange, .quotientOverflow].map FaultCode.number =
      [1, 2, 3, 4, 5, 6, 7] ∧
  ∀ s : State, s.status = .running →
    (∀ c n, step s = .next (s.faultedWith c n) ↔ FaultCause s c n) ∧
    (∀ t c r, step s = .next t → t.status = .faulted c r → FaultCause s c r.info) ∧
    ((∀ c n, ¬ FaultCause s c n) → ∃ t, step s = .next t ∧
      (t.status = .running ∨ t.status = .halted))

/-- R254: a step halts exactly when the instruction it ran left the pc at 4000, and only HLT or a taken
jump to 4000 does that; a pc of 4000 reached by the increment leaves the machine running. -/
def Obligations.HaltOnlyByHltOrJump : Prop :=
  ∀ s t : State, step s = .next t →
    (t.status = .halted ↔ s.pc ≤ 3999 ∧ ∃ i u, decode (s.mem.read s.pc) = .ok i ∧
      exec i s = .next u ∧ u.status = .running ∧ u.pc = 4000) ∧
    (t.status = .halted → t.pc = 4000 ∧
      ((s.mem.read s.pc).b4 = 5 ∧ (s.mem.read s.pc).b3 = 2 ∨
        39 ≤ (s.mem.read s.pc).b4.toNat ∧ (s.mem.read s.pc).b4.toNat ≤ 47 ∧
          resolvedAddress s (s.mem.read s.pc) = 4000))

/-- R200, R254, R255, for every jump of the opcode map, with M and the condition read from the bytes of its
word: a taken jump to M goes on at M + 1, and one to 4000 halts, in either case with `pc + 1` saved in rJ
unless it is JSJ; an untaken jump goes on at `pc + 1`; JOV and JNOV clear OV whether or not they are taken;
nothing else changes. -/
def Obligations.TakenJumpLandsAfterItsTarget : Prop :=
  ∀ s : State, s.status = .running → s.pc ≤ 3999 →
    let w := s.mem.read s.pc
    let c := w.b4.toNat
    let f := w.b3.toNat
    let m := resolvedAddress s w
    let ov := if c = 39 ∧ (f = 2 ∨ f = 3) then false else s.ov
    let rJ := if c = 39 ∧ f = 1 then s.rJ else mkword .plus (s.pc + 1)
    w.b2.toNat ≤ 6 → jumpCode c f →
      (jumpTaken s c f → m ≠ 4000 →
        step s = .next { s with ov := ov, rJ := rJ, pc := m + 1 }) ∧
      (jumpTaken s c f → m = 4000 →
        step s = .next { s with ov := ov, rJ := rJ, pc := 4000, status := .halted }) ∧
      (¬ jumpTaken s c f → step s = .next { s with ov := ov, pc := s.pc + 1 })

/-- A JSJ whose target is the address before it leaves the whole state as it was, pc included: the clause
of R258 that every step changes the pc cannot be read as 'gives it another value' (log 15). -/
def Obligations.JumpBeforeItselfLeavesEverything : Prop :=
  ∀ (a : Operand) (s : State), s.status = .running → s.pc ≤ 3999 →
    decode (s.mem.read s.pc) = .ok (.jsj a) → s.effAddr a + 1 = s.pc → step s = .next s

/-- The invariant of Safety.lean holds after reset, and after any launch with a pc of 17 bits. -/
def Obligations.InvariantHoldsAtLaunch : Prop :=
  State.reset.Inv ∧
  ∀ (image : List Word) (pc0 : Nat) (periph0 : Vector Byte 20) (regs0 : Reg → Word) (ov0 : Bool)
    (cmp0 : Cmp), image.length = 4000 → pc0 ≤ 131071 →
    (State.launch image pc0 periph0 regs0 ov0 cmp0).Inv

/-- Every step keeps the invariant: memory stays canonical, the pc stays within 17 bits (R30), a halted
machine stands at 4000 (R254), and a fault's record fits its code (R270, R272). -/
def Obligations.EveryStepKeepsTheInvariant : Prop :=
  ∀ s t : State, s.Inv → step s = .next t → t.Inv

/-- R33: no step changes the peripheral area, and none reads it: with any other contents there, the step
does the same to everything else. -/
def Obligations.PeripheralAreaIsInert : Prop :=
  ∀ (s t : State) (p : Vector Byte 20), step s = .next t →
    t.periph = s.periph ∧ step { s with periph := p } = .next { t with periph := p }

/-- R24 to R27: an instruction writes only the registers that the access summary gives it, and rJ only
with the address after the instruction, in a jump that is taken. -/
def Obligations.RegistersHaveOnlyTheirWriters : Prop :=
  ∀ (i : Instr) (s t : State), exec i s = .next t →
    (∀ r, t.reg r ≠ s.reg r → r ∈ mayWrite i) ∧
    (t.rJ ≠ s.rJ → t.rJ = mkword .plus (s.pc + 1) ∧ t.pc = s.effAddr i.operand)

/-- R28, R29, by the bytes of the instruction's word: OV is written only by ADD, SUB, DIV, INC, DEC, JOV and
JNOV, and CMP only by the compares. -/
def Obligations.FlagsHaveOnlyTheirWriters : Prop :=
  ∀ (i : Instr) (s t : State), exec i s = .next t →
    let c := (encode i).b4.toNat
    let f := (encode i).b3.toNat
    (t.ov ≠ s.ov → c = 1 ∨ c = 2 ∨ c = 4 ∨ (48 ≤ c ∧ c ≤ 55 ∧ f ≤ 1) ∨
      (c = 39 ∧ 2 ≤ f ∧ f ≤ 3 ∧ t.ov = false)) ∧
    (t.cmp ≠ s.cmp → 56 ≤ c ∧ c ≤ 63)

/-- R52, R54 and the rules of file 42: a step changes at most one word of memory, the one at the resolved
address, and only if it runs a store. -/
def Obligations.OnlyStoresWriteMemory : Prop :=
  ∀ s t : State, s.mem.wf = true → step s = .next t →
    ∀ x, t.mem.read x ≠ s.mem.read x →
      24 ≤ (s.mem.read s.pc).b4.toNat ∧ (s.mem.read s.pc).b4.toNat ≤ 33 ∧
        x = resolvedAddress s (s.mem.read s.pc) ∧ x ≤ 3999

/-- R85: for every word but those of address transfer (opcodes 48 to 55 with F of 3 or less), the
no-operations of opcodes 48 to 55 included, the word with the other sign decodes too, and to an instruction
that does the same in every state. -/
def Obligations.SignMattersOnlyToAddressTransfer : Prop :=
  ∀ (w : Word) (i : Instr), decode w = .ok i →
    ¬ (48 ≤ w.b4.toNat ∧ w.b4.toNat ≤ 55 ∧ w.b3.toNat ≤ 3) →
    ∃ j, decode (negate w) = .ok j ∧ ∀ s, exec i s = exec j s

/-! ### The run -/

/-- R256: a launched CORE is RUNNING; the run takes a step while the status is RUNNING; and it ends in one
of three ways: at the first state that is HALTED, with pc 4000; at the first that is FAULTED, which is the
state before its last step with only the status changed; or never. More fuel does not change its end. -/
def Obligations.RunEndsInOneOfThreeWays : Prop :=
  (∀ (image : List Word) (pc0 : Nat) (periph0 : Vector Byte 20) (regs0 : Reg → Word) (ov0 : Bool)
    (cmp0 : Cmp), (State.launch image pc0 periph0 regs0 ov0 cmp0).status = .running) ∧
  ∀ s : State, s.status = .running →
    runSteps 0 s = s ∧
    (∀ n, (runSteps n s).status = .running →
      step (runSteps n s) = .next (runSteps (n + 1) s)) ∧
    (∀ n, (runSteps n s).status ≠ .running → runSteps (n + 1) s = runSteps n s) ∧
    (∀ fuel, run fuel s = none ↔ (runSteps fuel s).status = .running) ∧
    (∀ fuel t, run fuel s = some t →
      (∀ more, run (fuel + more) s = some t) ∧
      ∃ n < fuel, (runSteps n s).status = .running ∧ step (runSteps n s) = .next t ∧
        (t.status = .halted ∧ t.pc = 4000 ∨
          ∃ c r, t = { runSteps n s with status := .faulted c r } ∧ r.pc = t.pc)) ∧
    ((∃ t, s.RunsTo t ∧ ∀ t', s.RunsTo t' → t' = t) ∧ ¬ s.RunsForever ∨
      s.RunsForever ∧ ∀ t, ¬ s.RunsTo t)

/-- All along the run from a state with the invariant, its end included, the invariant of Safety.lean holds
and the peripheral area is that of the start (R304). The canonical form of memory in the invariant is the
model's own (notes/assumptions/1.md). -/
def Obligations.RunKeepsInvariantAndPeripheralArea : Prop :=
  ∀ s : State, s.Inv →
    (∀ n, (runSteps n s).Inv ∧ (runSteps n s).periph = s.periph) ∧
    ∀ t, s.RunsTo t → t.Inv ∧ t.periph = s.periph ∧ t.status ≠ .running
end

