-- ==== Sys2Proof/Laws/Decode.lean ====
section
/-! SUPPORT. The fields of an instruction word: what the encoder puts in, the decoder takes out. -/

namespace Sys2Proof

@[simp] theorem indexOf_indexByte (i : Option IndexReg) : indexOf (indexByte i) = .ok i := by
  rcases i with _ | i
  · rfl
  · cases i <;> rfl

/-- Index resolution in one lemma: which selector byte each accepted index comes from. -/
theorem indexByte_of_indexOf {b : Byte} {i : Option IndexReg} (h : indexOf b = .ok i) :
    indexByte i = b := by
  unfold indexOf at h
  split at h <;> first
    | (cases h; apply BitVec.eq_of_toNat_eq; simp [indexByte, *])
    | simp at h

/-- Index resolution accepts exactly the selectors 0 to 6 (R74). -/
theorem indexOf_ok {b : Byte} (h : b.toNat ≤ 6) : ∃ i, indexOf b = .ok i := by
  unfold indexOf
  generalize b.toNat = n at h ⊢
  match n, h with
  | 0, _ | 1, _ | 2, _ | 3, _ | 4, _ | 5, _ | 6, _ => exact ⟨_, rfl⟩

theorem indexOf_error {b : Byte} (h : 7 ≤ b.toNat) :
    indexOf b = .error (.invalidIndex b.toNat) := by
  unfold indexOf
  generalize b.toNat = n at h ⊢
  match n, h with
  | _ + 7, _ => rfl

theorem valid_iff {f : FieldSpec} : f.valid = true ↔ f.left ≤ f.right ∧ f.right ≤ 5 := by
  simp [FieldSpec.valid]

theorem fieldByte_toNat {f : FieldSpec} (h : f.valid = true) :
    (fieldByte f).toNat = 8 * f.left + f.right := by
  obtain ⟨h1, h2⟩ := valid_iff.mp h
  rw [fieldByte, BitVec.toNat_ofNat]
  omega

theorem splitField_fieldByte {f : FieldSpec} (h : f.valid = true) :
    splitField (fieldByte f) = f := by
  obtain ⟨h1, h2⟩ := valid_iff.mp h
  obtain ⟨l, r⟩ := f
  simp only [splitField, fieldByte_toNat h, FieldSpec.mk.injEq]
  simp only at h1 h2
  omega

@[simp] theorem fieldByte_splitField (b : Byte) : fieldByte (splitField b) = b := by
  apply BitVec.eq_of_toNat_eq
  have hb := b.isLt
  simp only [fieldByte, splitField, BitVec.toNat_ofNat]
  omega

theorem fieldInstr_of_valid {f : FieldSpec} (h : f.valid = true) (k : FieldSpec → Instr) :
    fieldInstr (fieldByte f) k = .ok (k f) := by
  simp [fieldInstr, splitField_fieldByte h, h]

/-- Everything the field check can answer. -/
theorem fieldInstr_ok {b : Byte} {k : FieldSpec → Instr} {i : Instr}
    (h : fieldInstr b k = .ok i) : (splitField b).valid = true ∧ i = k (splitField b) := by
  unfold fieldInstr at h
  split at h
  · rename_i hv
    cases h
    exact ⟨hv, rfl⟩
  · cases h

/-- The two halves of an address, put together again. -/
theorem append_halves (x : BitVec 16) : x.extractLsb' 8 8 ++ x.extractLsb' 0 8 = x := by
  apply BitVec.eq_of_getLsbD_eq
  intro i hi
  simp only [BitVec.getLsbD_append, BitVec.getLsbD_extractLsb']
  by_cases h : i < 8
  · simp [h]
  · simp [h, show i - 8 < 8 by omega, show 8 + (i - 8) = i by omega]

theorem high_half (x y : BitVec 8) : (x ++ y).extractLsb' 8 8 = x := by
  apply BitVec.eq_of_getLsbD_eq
  intro i hi
  rw [BitVec.getLsbD_extractLsb', BitVec.getLsbD_append]
  simp [hi]

theorem low_half (x y : BitVec 8) : (x ++ y).extractLsb' 0 8 = y := by
  apply BitVec.eq_of_getLsbD_eq
  intro i hi
  rw [BitVec.getLsbD_extractLsb', BitVec.getLsbD_append]
  simp [hi]

@[simp] theorem addressField_instrWord (a : Operand) (f c : Byte) :
    addressField (instrWord a f c) = a.addr := by
  exact append_halves a.addr

/-- The decoder finds in `instrWord a f c` the operand `a` and dispatches on `f` and `c`. -/
theorem decode_instrWord (a : Operand) (f c : Byte) :
    decode (instrWord a f c) = dispatch a f c := by
  have h := addressField_instrWord a f c
  unfold decode
  rw [h]
  simp only [instrWord, indexOf_indexByte]

/-- A word is made again from the fields the decoder reads in it. -/
theorem instrWord_fields {w : Word} {i : Option IndexReg} (h : indexOf w.b2 = .ok i) :
    instrWord { sign := w.sign, addr := addressField w, index := i } w.b3 w.b4 = w := by
  have hi := indexByte_of_indexOf h
  cases w
  simp only [instrWord, addressField, Word.mk.injEq, true_and, and_true] at hi ⊢
  exact ⟨high_half _ _, low_half _ _, hi⟩

/-- Everything a decoder that accepts has done. -/
theorem decode_ok {w : Word} {i : Instr} (h : decode w = .ok i) :
    ∃ x, indexOf w.b2 = .ok x ∧
      dispatch { sign := w.sign, addr := addressField w, index := x } w.b3 w.b4 = .ok i := by
  unfold decode at h
  split at h
  · cases h
  · rename_i x hx
    exact ⟨x, hx, h⟩

theorem unmappedPair_iff {c f : Byte} : unmappedPair c f = true ↔
    c.toNat = 7 ∨ (34 ≤ c.toNat ∧ c.toNat ≤ 38) ∨ 64 ≤ c.toNat ∨ (c.toNat = 5 ∧ f.toNat ≠ 2) ∨
    (c.toNat = 6 ∧ 6 ≤ f.toNat) ∨ (c.toNat = 39 ∧ 10 ≤ f.toNat) ∨
    (40 ≤ c.toNat ∧ c.toNat ≤ 47 ∧ 6 ≤ f.toNat) ∨
    (48 ≤ c.toNat ∧ c.toNat ≤ 55 ∧ 4 ≤ f.toNat) := by
  simp only [unmappedPair, Bool.or_eq_true, decide_eq_true_eq, or_assoc]

theorem unmapped_registerJump {c f : Byte} (h1 : 40 ≤ c.toNat) (h2 : c.toNat ≤ 47)
    (h : 6 ≤ f.toNat) : unmappedPair c f = true := by
  simp [unmappedPair, *]

theorem unmapped_transfer {c f : Byte} (h1 : 48 ≤ c.toNat) (h2 : c.toNat ≤ 55)
    (h : 4 ≤ f.toNat) : unmappedPair c f = true := by
  simp [unmappedPair, *]

/-- Everything a SUB-class opcode can answer. -/
theorem subInstr_ok {a : Operand} {f c : Byte} {subs : List Instr} {i : Instr}
    (h : subInstr a f c subs = .ok i) :
    subs[f.toNat]? = some i ∨ (subs.length ≤ f.toNat ∧ i = .nopUnmapped a c f) := by
  unfold subInstr at h
  split at h <;> cases h
  · left; assumption
  · right; exact ⟨List.getElem?_eq_none_iff.mp ‹_›, rfl⟩

/-- A SUB-class opcode answers a well-formed instruction with the operand it was given. -/
theorem subInstr_wellFormed {a : Operand} {f c : Byte} {subs : List Instr} {i : Instr}
    (h : subInstr a f c subs = .ok i) (hs : ∀ j ∈ subs, j.wellFormed = true ∧ j.operand = a)
    (hu : subs.length ≤ f.toNat → unmappedPair c f = true) :
    i.wellFormed = true ∧ i.operand = a := by
  rcases subInstr_ok h with h | ⟨hl, rfl⟩
  · exact hs i (List.mem_of_getElem? h)
  · exact ⟨hu hl, rfl⟩

theorem dispatchControl_ok {a : Operand} {f c : Byte} {i : Instr}
    (hl : 0 ≤ c.toNat) (hu : c.toNat ≤ 7) (h : dispatchControl a f c = .ok i) :
    i.wellFormed = true ∧ i.operand = a := by
  unfold dispatchControl at h
  split at h
  case h_6 =>
    split at h <;> cases h
    · exact ⟨rfl, rfl⟩
    · exact ⟨by simp only [Instr.wellFormed, unmappedPair_iff]; omega, rfl⟩
  case h_7 =>
    refine subInstr_wellFormed h (by intro j hj; fin_cases hj <;> exact ⟨rfl, rfl⟩) fun hs => ?_
    simp only [List.length_cons, List.length_nil] at hs
    rw [unmappedPair_iff]
    omega
  case h_8 =>
    cases h
    exact ⟨by simp only [Instr.wellFormed, unmappedPair_iff]; simp only [imp_false] at *; omega, rfl⟩
  case h_1 =>
    cases h
    exact ⟨rfl, rfl⟩
  all_goals
    obtain ⟨hv, rfl⟩ := fieldInstr_ok h
    exact ⟨hv, rfl⟩

theorem dispatchLoads_ok {a : Operand} {f c : Byte} {i : Instr}
    (hl : 8 ≤ c.toNat) (hu : c.toNat ≤ 15) (h : dispatchLoads a f c = .ok i) :
    i.wellFormed = true ∧ i.operand = a := by
  unfold dispatchLoads at h
  split at h
  case h_9 =>
    simp only [imp_false] at *
    omega
  all_goals
    obtain ⟨hv, rfl⟩ := fieldInstr_ok h
    exact ⟨hv, rfl⟩

theorem dispatchNegativeLoads_ok {a : Operand} {f c : Byte} {i : Instr}
    (hl : 16 ≤ c.toNat) (hu : c.toNat ≤ 23) (h : dispatchNegativeLoads a f c = .ok i) :
    i.wellFormed = true ∧ i.operand = a := by
  unfold dispatchNegativeLoads at h
  split at h
  case h_9 =>
    simp only [imp_false] at *
    omega
  all_goals
    obtain ⟨hv, rfl⟩ := fieldInstr_ok h
    exact ⟨hv, rfl⟩

theorem dispatchStores_ok {a : Operand} {f c : Byte} {i : Instr}
    (hl : 24 ≤ c.toNat) (hu : c.toNat ≤ 33) (h : dispatchStores a f c = .ok i) :
    i.wellFormed = true ∧ i.operand = a := by
  unfold dispatchStores at h
  split at h
  case h_11 =>
    simp only [imp_false] at *
    omega
  all_goals
    obtain ⟨hv, rfl⟩ := fieldInstr_ok h
    exact ⟨hv, rfl⟩

theorem dispatchJumps_ok {a : Operand} {f c : Byte} {i : Instr}
    (hl : 39 ≤ c.toNat) (hu : c.toNat ≤ 47) (h : dispatchJumps a f c = .ok i) :
    i.wellFormed = true ∧ i.operand = a := by
  unfold dispatchJumps at h
  split at h
  case h_10 =>
    simp only [imp_false] at *
    omega
  case h_1 =>
    rename_i hc
    exact subInstr_wellFormed h (by intro j hj; fin_cases hj <;> exact ⟨rfl, rfl⟩) fun hs => by
      have : 10 ≤ f.toNat := hs
      simp [unmappedPair, *]
  all_goals
    exact subInstr_wellFormed h (by intro j hj; fin_cases hj <;> exact ⟨rfl, rfl⟩) fun hs =>
      unmapped_registerJump (by omega) hu hs

theorem dispatchTransfers_ok {a : Operand} {f c : Byte} {i : Instr}
    (hl : 48 ≤ c.toNat) (hu : c.toNat ≤ 55) (h : dispatchTransfers a f c = .ok i) :
    i.wellFormed = true ∧ i.operand = a := by
  unfold dispatchTransfers at h
  split at h
  case h_9 =>
    simp only [imp_false] at *
    omega
  all_goals
    exact subInstr_wellFormed h (by intro j hj; fin_cases hj <;> exact ⟨rfl, rfl⟩) fun hs =>
      unmapped_transfer (by omega) hu hs

theorem dispatchCompares_ok {a : Operand} {f c : Byte} {i : Instr}
    (hl : 56 ≤ c.toNat) (hu : c.toNat ≤ 63) (h : dispatchCompares a f c = .ok i) :
    i.wellFormed = true ∧ i.operand = a := by
  unfold dispatchCompares at h
  split at h
  case h_9 =>
    simp only [imp_false] at *
    omega
  all_goals
    obtain ⟨hv, rfl⟩ := fieldInstr_ok h
    exact ⟨hv, rfl⟩

/-- Dispatch answers a well-formed instruction that carries the operand it was given. -/
theorem dispatch_ok {a : Operand} {f c : Byte} {i : Instr} (h : dispatch a f c = .ok i) :
    i.wellFormed = true ∧ i.operand = a := by
  unfold dispatch at h
  split at h; exact dispatchControl_ok (by omega) (by omega) h
  split at h; exact dispatchLoads_ok (by omega) (by omega) h
  split at h; exact dispatchNegativeLoads_ok (by omega) (by omega) h
  split at h; exact dispatchStores_ok (by omega) (by omega) h
  split at h; (cases h; exact ⟨by simp only [Instr.wellFormed, unmappedPair_iff]; omega, rfl⟩)
  split at h; exact dispatchJumps_ok (by omega) (by omega) h
  split at h; exact dispatchTransfers_ok (by omega) (by omega) h
  split at h; exact dispatchCompares_ok (by omega) (by omega) h
  cases h
  exact ⟨by simp only [Instr.wellFormed, unmappedPair_iff]; omega, rfl⟩

/-- The decoder answers only well-formed instructions, with the operand of the word. -/
theorem decode_wellFormed {w : Word} {i : Instr} (h : decode w = .ok i) : i.wellFormed = true := by
  obtain ⟨x, _, hd⟩ := decode_ok h
  exact (dispatch_ok hd).1

end Sys2Proof
end

