-- ==== Sys2Proof/Laws/Words.lean ====
section
/-! SUPPORT. Words, their bytes and the numbers they stand for. -/

namespace Sys2Proof.Machine

@[simp] theorem ofBytes_sign (s : Sign) (f : Nat → Byte) : (Word.ofBytes s f).sign = s := rfl

theorem ofBytes_byte (s : Sign) (f : Nat → Byte) {k : Nat} (hk : k < 5) :
    (Word.ofBytes s f).byte k = f k := by
  match k, hk with
  | 0, _ => rfl
  | 1, _ => rfl
  | 2, _ => rfl
  | 3, _ => rfl
  | 4, _ => rfl

/-- A word is its sign and its five bytes. -/
theorem word_ext {v w : Word} (hs : v.sign = w.sign) (hb : ∀ k < 5, v.byte k = w.byte k) :
    v = w := by
  have h0 := hb 0 (by omega); have h1 := hb 1 (by omega); have h2 := hb 2 (by omega)
  have h3 := hb 3 (by omega); have h4 := hb 4 (by omega)
  cases v; cases w
  simp_all [Word.byte]

@[simp] theorem negate_byte (w : Word) (k : Nat) : (negate w).byte k = w.byte k := by
  unfold negate Word.byte; rfl

@[simp] theorem negate_sign (w : Word) : (negate w).sign = w.sign.flip := rfl

@[simp] theorem flip_flip (s : Sign) : s.flip.flip = s := by cases s <;> rfl

@[simp] theorem negate_negate (w : Word) : negate (negate w) = w := by
  cases w; simp [negate]

@[simp] theorem windowMag_zero (w : Word) (l : Nat) : windowMag w l 0 = 0 := rfl

theorem windowMag_succ (w : Word) (l n : Nat) :
    windowMag w l (n + 1) = windowMag w l n * 256 + (w.byte (l + n)).toNat := rfl

@[simp] theorem windowMag_negate (w : Word) (l n : Nat) :
    windowMag (negate w) l n = windowMag w l n := by
  induction n with
  | zero => rfl
  | succ n ih => simp only [windowMag_succ, ih, negate_byte]

@[simp] theorem mag_negate (w : Word) : mag (negate w) = mag w := windowMag_negate w 0 5

theorem windowMag_lt (w : Word) (l n : Nat) : windowMag w l n < 256 ^ n := by
  induction n with
  | zero => simp
  | succ n ih =>
    have hb := (w.byte (l + n)).isLt
    rw [windowMag_succ, Nat.pow_succ]
    omega

theorem mag_lt (w : Word) : mag w < 256 ^ 5 := windowMag_lt w 0 5

/-- Windows with the same bytes have the same magnitude. -/
theorem windowMag_congr {v w : Word} {l n : Nat} (h : ∀ k, l ≤ k → k < l + n → v.byte k = w.byte k) :
    windowMag v l n = windowMag w l n := by
  induction n with
  | zero => rfl
  | succ n ih =>
    rw [windowMag_succ, windowMag_succ, ih fun k h1 h2 => h k h1 (by omega),
      h (l + n) (by omega) (by omega)]

/-- A window whose byte `k` is digit `r - k` of `m` in base 256 has the magnitude `m`, cut to the
window. -/
theorem windowMag_digits {w : Word} {l n m : Nat}
    (h : ∀ k, l ≤ k → k < l + n → (w.byte k).toNat = m / 256 ^ (l + n - 1 - k) % 256) :
    windowMag w l n = m % 256 ^ n := by
  induction n generalizing m with
  | zero => simp [Nat.mod_one]
  | succ n ih =>
    have hlast := h (l + n) (by omega) (by omega)
    rw [show l + (n + 1) - 1 - (l + n) = 0 by omega, Nat.pow_zero, Nat.div_one] at hlast
    rw [windowMag_succ, hlast, ih (m := m / 256)]
    · rw [Nat.pow_succ, Nat.mul_comm (256 ^ n) 256, Nat.mod_mul]
      omega
    · intro k hl hk
      rw [h k hl (by omega), Nat.div_div_eq_div_mul, ← Nat.pow_succ']
      congr 3
      omega

@[simp] theorem mkword_sign (s : Sign) (n : Nat) : (mkword s n).sign = s := rfl

theorem mkword_byte (s : Sign) (n : Nat) {k : Nat} (hk : k < 5) :
    ((mkword s n).byte k).toNat = n / 256 ^ (4 - k) % 256 := by
  rw [mkword, ofBytes_byte _ _ hk, BitVec.toNat_ofNat]

theorem mag_mkword (s : Sign) (n : Nat) : mag (mkword s n) = n % 256 ^ 5 :=
  windowMag_digits fun k _ hk => mkword_byte s n (by omega)

theorem mag_mkword_of_lt (s : Sign) {n : Nat} (h : n < 256 ^ 5) : mag (mkword s n) = n := by
  rw [mag_mkword, Nat.mod_eq_of_lt h]

end Sys2Proof.Machine
end

