-- ==== Sys2Proof/Laws/Datapath.lean ====
section
/-! SUPPORT. The windows of valid field specifications, and the facts about the field unit and the
comparator that the laws of the arithmetic unit rest on. -/

namespace Sys2Proof.Machine

/-- The window of a valid field specification lies inside the word. -/
theorem window_bounds {f : FieldSpec} (hv : f.valid = true) :
    lo f ≤ hi f ∧ hi f ≤ 4 ∧ lo f + width f = hi f + 1 ∧ 1 ≤ width f ∧ width f ≤ 5 := by
  obtain ⟨h1, h2⟩ := valid_iff.mp hv
  simp only [lo, hi, width]
  omega

theorem onlyZero_iff {f : FieldSpec} : onlyZero f = true ↔ f.right = 0 := by
  simp [onlyZero]

theorem zeroIncluded_iff {f : FieldSpec} : zeroIncluded f = true ↔ f.left = 0 := by
  simp [zeroIncluded]

theorem inWindow_iff {f : FieldSpec} {k : Nat} :
    inWindow f k = true ↔ lo f ≤ k ∧ k ≤ hi f := by
  simp [inWindow]

/-- The magnitude of a field value is the magnitude of the window. -/
theorem fieldValue_natAbs {w : Word} {f : FieldSpec} (hr : f.right ≠ 0) :
    (fieldValue w f).natAbs = windowMag w (lo f) (width f) := by
  unfold fieldValue
  rw [if_neg (by simp [onlyZero_iff, hr])]
  split <;> simp

theorem fieldValue_natAbs_lt {w : Word} {f : FieldSpec} (hv : f.valid = true)
    (hr : f.right ≠ 0) : (fieldValue w f).natAbs < 256 ^ 5 := by
  rw [fieldValue_natAbs hr]
  exact Nat.lt_of_lt_of_le (windowMag_lt w _ _)
    (Nat.pow_le_pow_right (by omega) (window_bounds hv).2.2.2.2)

theorem val_natAbs (w : Word) : (val w).natAbs = mag w := by
  unfold val; split <;> simp

theorem mul_natAbs_lt {w1 w2 : Word} {f : FieldSpec} (hv : f.valid = true) (hr : f.right ≠ 0) :
    (val w1 * fieldValue w2 f).natAbs < 256 ^ 10 := by
  rw [Int.natAbs_mul, val_natAbs, show 256 ^ 10 = 256 ^ 5 * 256 ^ 5 from rfl]
  exact Nat.mul_lt_mul'' (mag_lt w1) (fieldValue_natAbs_lt hv hr)

/-- A window from its first byte: the first byte is the most significant digit. -/
theorem windowMag_head (w : Word) (l n : Nat) :
    windowMag w l (n + 1) = (w.byte l).toNat * 256 ^ n + windowMag w (l + 1) n := by
  induction n with
  | zero => simp [windowMag_succ]
  | succ n ih =>
    rw [windowMag_succ, ih, windowMag_succ w (l + 1) n, show l + (n + 1) = l + 1 + n by omega,
      Nat.pow_succ]
    ring

/-- The comparator compares window magnitudes: the first differing byte decides as the numbers do. -/
theorem compareBytes_eq (w1 w2 : Word) (l n : Nat) :
    compareBytes w1 w2 l n =
      if windowMag w2 l n < windowMag w1 l n then .greater
      else if windowMag w1 l n < windowMag w2 l n then .less else .equal := by
  induction n generalizing l with
  | zero => simp [compareBytes]
  | succ n ih =>
    have h1 := windowMag_lt w1 (l + 1) n
    have h2 := windowMag_lt w2 (l + 1) n
    rw [compareBytes, windowMag_head w1, windowMag_head w2, ih]
    generalize (w1.byte l).toNat = x at *
    generalize (w2.byte l).toNat = y at *
    generalize windowMag w1 (l + 1) n = p at *
    generalize windowMag w2 (l + 1) n = q at *
    generalize 256 ^ n = B at *
    rcases Nat.lt_trichotomy x y with hxy | hxy | hxy
    · have : x * B + B ≤ y * B := by nlinarith
      rw [if_neg (by omega), if_pos hxy, if_neg (by omega), if_pos (by omega)]
    · subst hxy
      simp
    · have : y * B + B ≤ x * B := by nlinarith
      rw [if_pos hxy, if_pos (by omega)]

end Sys2Proof.Machine
end

