-- ==== Sys2Proof/Laws/Memory.lean ====
section
/-! SUPPORT. The laws of memory: every operation keeps the canonical form, and a read after a write
gives the word written and leaves every other address alone. -/

namespace Sys2Proof.Machine

theorem wfFrom_mono {lo lo' : Nat} (hle : lo' ≤ lo) :
    ∀ {m : Memory}, Memory.wfFrom lo m = true → Memory.wfFrom lo' m = true
  | [], _ => rfl
  | (a, w) :: t, h => by
    simp only [Memory.wfFrom, Bool.and_eq_true, decide_eq_true_eq] at h ⊢
    exact ⟨⟨⟨by omega, h.1.1.2⟩, h.1.2⟩, h.2⟩

theorem wfFrom_cons {lo a : Nat} {w : Word} {t : Memory} :
    Memory.wfFrom lo ((a, w) :: t) = true ↔
      lo ≤ a ∧ a < 4000 ∧ w ≠ Memory.unlisted ∧ Memory.wfFrom (a + 1) t = true := by
  simp only [Memory.wfFrom, Bool.and_eq_true, decide_eq_true_eq, Config.memWords]
  tauto

theorem wfFrom_cell {lo a : Nat} {w : Word} {t : Memory} (hlo : lo ≤ a) (ha : a < 4000)
    (ht : Memory.wfFrom (a + 1) t = true) : Memory.wfFrom lo (Memory.cell a w t) = true := by
  unfold Memory.cell
  split
  · exact wfFrom_mono (by omega) ht
  · rename_i hw
    exact wfFrom_cons.mpr ⟨hlo, ha, hw, ht⟩

theorem wfFrom_write {a : Nat} (ha : a < 4000) (w : Word) :
    ∀ {m : Memory} {lo : Nat}, lo ≤ a → Memory.wfFrom lo m = true →
      Memory.wfFrom lo (m.write a w) = true
  | [], _, hlo, _ => wfFrom_cell hlo ha rfl
  | (b, v) :: t, _, hlo, h => by
    obtain ⟨hb, hb4, hv, ht⟩ := wfFrom_cons.mp h
    unfold Memory.write
    split
    · exact wfFrom_cell hlo ha (wfFrom_cons.mpr ⟨by omega, hb4, hv, ht⟩)
    · split
      · rename_i _ hab
        exact wfFrom_cell hlo ha (hab ▸ ht)
      · exact wfFrom_cons.mpr ⟨hb, hb4, hv, wfFrom_write ha w (by omega) ht⟩

/-- Writing a word inside memory keeps the canonical form. -/
theorem write_wf {m : Memory} {a : Nat} (w : Word) (hm : m.wf = true) (ha : a < 4000) :
    (m.write a w).wf = true :=
  wfFrom_write ha w (Nat.zero_le a) hm

theorem wfFrom_ofImageFrom :
    ∀ (image : List Word) (a : Nat), a + image.length ≤ 4000 →
      Memory.wfFrom a (Memory.ofImageFrom a image) = true
  | [], _, _ => rfl
  | _ :: ws, a, h => by
    simp only [List.length_cons] at h
    exact wfFrom_cell (Nat.le_refl a) (by omega) (wfFrom_ofImageFrom ws (a + 1) (by omega))

/-- Below its first possible address a canonical memory reads as unlisted. -/
theorem read_below {lo a : Nat} (h : a < lo) :
    ∀ {m : Memory}, Memory.wfFrom lo m = true → m.read a = Memory.unlisted
  | [], _ => rfl
  | (b, v) :: t, hm => by
    obtain ⟨hb, _, _, ht⟩ := wfFrom_cons.mp hm
    simp only [Memory.read, if_neg (show b ≠ a by omega)]
    exact read_below (by omega) ht

theorem read_cell {lo a : Nat} {w : Word} {t : Memory} (ht : Memory.wfFrom lo t = true)
    (ha : a < lo) (x : Nat) :
    (Memory.cell a w t).read x = if x = a then w else t.read x := by
  unfold Memory.cell
  split
  · split
    · rename_i hw hx
      rw [hx, hw, read_below ha ht]
    · rfl
  · simp only [Memory.read, eq_comm]

theorem read_write_from {a : Nat} (w : Word) (x : Nat) :
    ∀ {m : Memory} {lo : Nat}, Memory.wfFrom lo m = true →
      (m.write a w).read x = if x = a then w else m.read x
  | [], _, _ => read_cell (lo := a + 1) rfl (by omega) x
  | (b, v) :: t, _, h => by
    obtain ⟨_, hb4, hv, ht⟩ := wfFrom_cons.mp h
    unfold Memory.write
    split
    · rename_i hab
      exact read_cell (lo := b) (wfFrom_cons.mpr ⟨Nat.le_refl b, hb4, hv, ht⟩) hab x
    · split
      · rename_i _ hab
        subst hab
        rw [read_cell ht (by omega)]
        split
        · rfl
        · rename_i hx
          simp only [Memory.read, if_neg (Ne.symm hx)]
      · rename_i hab hne
        simp only [Memory.read]
        rw [read_write_from w x ht]
        by_cases hx : b = x
        · rw [if_pos hx, if_pos hx, if_neg (by omega)]
        · rw [if_neg hx, if_neg hx]

/-- A read after a write, anywhere in a canonical memory. -/
theorem read_write {m : Memory} (hm : m.wf = true) (a : Nat) (w : Word) (x : Nat) :
    (m.write a w).read x = if x = a then w else m.read x :=
  read_write_from w x hm

end Sys2Proof.Machine
end

