-- ==== Sys2Proof/Laws/State.lean ====
section
/-! SUPPORT. One lemma per field for each update of State, so that no later proof unfolds a record
update. -/

namespace Sys2Proof.Machine

/-! ### Reading a register of an updated state -/

@[simp] theorem setReg_reg (s : State) (r q : Reg) (w : Word) :
    (s.setReg r w).reg q = if q = r then w else s.reg q := by
  cases r <;> cases q <;> rfl

/-! ### `setOv` -/

@[simp] theorem setOv_reg (s : State) (v : Bool) (r : Reg) : (s.setOv v).reg r = s.reg r := by
  cases r <;> rfl

@[simp] theorem setOv_rA (s : State) (v : Bool) : (s.setOv v).rA = s.rA := rfl
@[simp] theorem setOv_rX (s : State) (v : Bool) : (s.setOv v).rX = s.rX := rfl
@[simp] theorem setOv_rI1 (s : State) (v : Bool) : (s.setOv v).rI1 = s.rI1 := rfl
@[simp] theorem setOv_rI2 (s : State) (v : Bool) : (s.setOv v).rI2 = s.rI2 := rfl
@[simp] theorem setOv_rI3 (s : State) (v : Bool) : (s.setOv v).rI3 = s.rI3 := rfl
@[simp] theorem setOv_rI4 (s : State) (v : Bool) : (s.setOv v).rI4 = s.rI4 := rfl
@[simp] theorem setOv_rI5 (s : State) (v : Bool) : (s.setOv v).rI5 = s.rI5 := rfl
@[simp] theorem setOv_rI6 (s : State) (v : Bool) : (s.setOv v).rI6 = s.rI6 := rfl
@[simp] theorem setOv_rJ (s : State) (v : Bool) : (s.setOv v).rJ = s.rJ := rfl
@[simp] theorem setOv_ov (s : State) (v : Bool) : (s.setOv v).ov = v := rfl
@[simp] theorem setOv_cmp (s : State) (v : Bool) : (s.setOv v).cmp = s.cmp := rfl
@[simp] theorem setOv_pc (s : State) (v : Bool) : (s.setOv v).pc = s.pc := rfl
@[simp] theorem setOv_mem (s : State) (v : Bool) : (s.setOv v).mem = s.mem := rfl
@[simp] theorem setOv_periph (s : State) (v : Bool) : (s.setOv v).periph = s.periph := rfl
@[simp] theorem setOv_status (s : State) (v : Bool) : (s.setOv v).status = s.status := rfl

/-! ### `setCmp` -/

@[simp] theorem setCmp_reg (s : State) (c : Cmp) (r : Reg) : (s.setCmp c).reg r = s.reg r := by
  cases r <;> rfl

@[simp] theorem setCmp_rA (s : State) (c : Cmp) : (s.setCmp c).rA = s.rA := rfl
@[simp] theorem setCmp_rX (s : State) (c : Cmp) : (s.setCmp c).rX = s.rX := rfl
@[simp] theorem setCmp_rI1 (s : State) (c : Cmp) : (s.setCmp c).rI1 = s.rI1 := rfl
@[simp] theorem setCmp_rI2 (s : State) (c : Cmp) : (s.setCmp c).rI2 = s.rI2 := rfl
@[simp] theorem setCmp_rI3 (s : State) (c : Cmp) : (s.setCmp c).rI3 = s.rI3 := rfl
@[simp] theorem setCmp_rI4 (s : State) (c : Cmp) : (s.setCmp c).rI4 = s.rI4 := rfl
@[simp] theorem setCmp_rI5 (s : State) (c : Cmp) : (s.setCmp c).rI5 = s.rI5 := rfl
@[simp] theorem setCmp_rI6 (s : State) (c : Cmp) : (s.setCmp c).rI6 = s.rI6 := rfl
@[simp] theorem setCmp_rJ (s : State) (c : Cmp) : (s.setCmp c).rJ = s.rJ := rfl
@[simp] theorem setCmp_ov (s : State) (c : Cmp) : (s.setCmp c).ov = s.ov := rfl
@[simp] theorem setCmp_cmp (s : State) (c : Cmp) : (s.setCmp c).cmp = c := rfl
@[simp] theorem setCmp_pc (s : State) (c : Cmp) : (s.setCmp c).pc = s.pc := rfl
@[simp] theorem setCmp_mem (s : State) (c : Cmp) : (s.setCmp c).mem = s.mem := rfl
@[simp] theorem setCmp_periph (s : State) (c : Cmp) : (s.setCmp c).periph = s.periph := rfl
@[simp] theorem setCmp_status (s : State) (c : Cmp) : (s.setCmp c).status = s.status := rfl

/-! ### `setPc` -/

@[simp] theorem setPc_reg (s : State) (n : Nat) (r : Reg) : (s.setPc n).reg r = s.reg r := by
  cases r <;> rfl

@[simp] theorem setPc_rA (s : State) (n : Nat) : (s.setPc n).rA = s.rA := rfl
@[simp] theorem setPc_rX (s : State) (n : Nat) : (s.setPc n).rX = s.rX := rfl
@[simp] theorem setPc_rI1 (s : State) (n : Nat) : (s.setPc n).rI1 = s.rI1 := rfl
@[simp] theorem setPc_rI2 (s : State) (n : Nat) : (s.setPc n).rI2 = s.rI2 := rfl
@[simp] theorem setPc_rI3 (s : State) (n : Nat) : (s.setPc n).rI3 = s.rI3 := rfl
@[simp] theorem setPc_rI4 (s : State) (n : Nat) : (s.setPc n).rI4 = s.rI4 := rfl
@[simp] theorem setPc_rI5 (s : State) (n : Nat) : (s.setPc n).rI5 = s.rI5 := rfl
@[simp] theorem setPc_rI6 (s : State) (n : Nat) : (s.setPc n).rI6 = s.rI6 := rfl
@[simp] theorem setPc_rJ (s : State) (n : Nat) : (s.setPc n).rJ = s.rJ := rfl
@[simp] theorem setPc_ov (s : State) (n : Nat) : (s.setPc n).ov = s.ov := rfl
@[simp] theorem setPc_cmp (s : State) (n : Nat) : (s.setPc n).cmp = s.cmp := rfl
@[simp] theorem setPc_pc (s : State) (n : Nat) : (s.setPc n).pc = n := rfl
@[simp] theorem setPc_mem (s : State) (n : Nat) : (s.setPc n).mem = s.mem := rfl
@[simp] theorem setPc_periph (s : State) (n : Nat) : (s.setPc n).periph = s.periph := rfl
@[simp] theorem setPc_status (s : State) (n : Nat) : (s.setPc n).status = s.status := rfl

/-! ### `writeWord` -/

@[simp] theorem writeWord_reg (s : State) (a : Nat) (w : Word) (r : Reg) : (s.writeWord a w).reg r = s.reg r := by
  cases r <;> rfl

@[simp] theorem writeWord_rA (s : State) (a : Nat) (w : Word) : (s.writeWord a w).rA = s.rA := rfl
@[simp] theorem writeWord_rX (s : State) (a : Nat) (w : Word) : (s.writeWord a w).rX = s.rX := rfl
@[simp] theorem writeWord_rI1 (s : State) (a : Nat) (w : Word) : (s.writeWord a w).rI1 = s.rI1 := rfl
@[simp] theorem writeWord_rI2 (s : State) (a : Nat) (w : Word) : (s.writeWord a w).rI2 = s.rI2 := rfl
@[simp] theorem writeWord_rI3 (s : State) (a : Nat) (w : Word) : (s.writeWord a w).rI3 = s.rI3 := rfl
@[simp] theorem writeWord_rI4 (s : State) (a : Nat) (w : Word) : (s.writeWord a w).rI4 = s.rI4 := rfl
@[simp] theorem writeWord_rI5 (s : State) (a : Nat) (w : Word) : (s.writeWord a w).rI5 = s.rI5 := rfl
@[simp] theorem writeWord_rI6 (s : State) (a : Nat) (w : Word) : (s.writeWord a w).rI6 = s.rI6 := rfl
@[simp] theorem writeWord_rJ (s : State) (a : Nat) (w : Word) : (s.writeWord a w).rJ = s.rJ := rfl
@[simp] theorem writeWord_ov (s : State) (a : Nat) (w : Word) : (s.writeWord a w).ov = s.ov := rfl
@[simp] theorem writeWord_cmp (s : State) (a : Nat) (w : Word) : (s.writeWord a w).cmp = s.cmp := rfl
@[simp] theorem writeWord_pc (s : State) (a : Nat) (w : Word) : (s.writeWord a w).pc = s.pc := rfl
@[simp] theorem writeWord_mem (s : State) (a : Nat) (w : Word) : (s.writeWord a w).mem = s.mem.write a w := rfl
@[simp] theorem writeWord_periph (s : State) (a : Nat) (w : Word) : (s.writeWord a w).periph = s.periph := rfl
@[simp] theorem writeWord_status (s : State) (a : Nat) (w : Word) : (s.writeWord a w).status = s.status := rfl

/-! ### `takeFault` -/

@[simp] theorem takeFault_reg (s : State) (e : Raised) (r : Reg) : (s.takeFault e).reg r = s.reg r := by
  cases r <;> rfl

@[simp] theorem takeFault_rA (s : State) (e : Raised) : (s.takeFault e).rA = s.rA := rfl
@[simp] theorem takeFault_rX (s : State) (e : Raised) : (s.takeFault e).rX = s.rX := rfl
@[simp] theorem takeFault_rI1 (s : State) (e : Raised) : (s.takeFault e).rI1 = s.rI1 := rfl
@[simp] theorem takeFault_rI2 (s : State) (e : Raised) : (s.takeFault e).rI2 = s.rI2 := rfl
@[simp] theorem takeFault_rI3 (s : State) (e : Raised) : (s.takeFault e).rI3 = s.rI3 := rfl
@[simp] theorem takeFault_rI4 (s : State) (e : Raised) : (s.takeFault e).rI4 = s.rI4 := rfl
@[simp] theorem takeFault_rI5 (s : State) (e : Raised) : (s.takeFault e).rI5 = s.rI5 := rfl
@[simp] theorem takeFault_rI6 (s : State) (e : Raised) : (s.takeFault e).rI6 = s.rI6 := rfl
@[simp] theorem takeFault_rJ (s : State) (e : Raised) : (s.takeFault e).rJ = s.rJ := rfl
@[simp] theorem takeFault_ov (s : State) (e : Raised) : (s.takeFault e).ov = s.ov := rfl
@[simp] theorem takeFault_cmp (s : State) (e : Raised) : (s.takeFault e).cmp = s.cmp := rfl
@[simp] theorem takeFault_pc (s : State) (e : Raised) : (s.takeFault e).pc = s.pc := rfl
@[simp] theorem takeFault_mem (s : State) (e : Raised) : (s.takeFault e).mem = s.mem := rfl
@[simp] theorem takeFault_periph (s : State) (e : Raised) : (s.takeFault e).periph = s.periph := rfl
@[simp] theorem takeFault_status (s : State) (e : Raised) : (s.takeFault e).status = .faulted e.code { pc := s.pc, word := s.fetchedWord, info := e.info } := rfl

/-! ### `setReg` -/

@[simp] theorem setReg_ov (s : State) (r : Reg) (w : Word) : (s.setReg r w).ov = s.ov := by
  cases r <;> rfl

@[simp] theorem setReg_cmp (s : State) (r : Reg) (w : Word) : (s.setReg r w).cmp = s.cmp := by
  cases r <;> rfl

@[simp] theorem setReg_pc (s : State) (r : Reg) (w : Word) : (s.setReg r w).pc = s.pc := by
  cases r <;> rfl

@[simp] theorem setReg_mem (s : State) (r : Reg) (w : Word) : (s.setReg r w).mem = s.mem := by
  cases r <;> rfl

@[simp] theorem setReg_periph (s : State) (r : Reg) (w : Word) : (s.setReg r w).periph = s.periph := by
  cases r <;> rfl

@[simp] theorem setReg_status (s : State) (r : Reg) (w : Word) : (s.setReg r w).status = s.status := by
  cases r <;> rfl

theorem reg_A (s : State) : s.reg .A = s.rA := rfl
theorem setReg_A (s : State) (w : Word) : s.setReg .A w = { s with rA := w } := rfl
theorem reg_X (s : State) : s.reg .X = s.rX := rfl
theorem setReg_X (s : State) (w : Word) : s.setReg .X w = { s with rX := w } := rfl
theorem reg_I1 (s : State) : s.reg .I1 = s.rI1 := rfl
theorem setReg_I1 (s : State) (w : Word) : s.setReg .I1 w = { s with rI1 := w } := rfl
theorem reg_I2 (s : State) : s.reg .I2 = s.rI2 := rfl
theorem setReg_I2 (s : State) (w : Word) : s.setReg .I2 w = { s with rI2 := w } := rfl
theorem reg_I3 (s : State) : s.reg .I3 = s.rI3 := rfl
theorem setReg_I3 (s : State) (w : Word) : s.setReg .I3 w = { s with rI3 := w } := rfl
theorem reg_I4 (s : State) : s.reg .I4 = s.rI4 := rfl
theorem setReg_I4 (s : State) (w : Word) : s.setReg .I4 w = { s with rI4 := w } := rfl
theorem reg_I5 (s : State) : s.reg .I5 = s.rI5 := rfl
theorem setReg_I5 (s : State) (w : Word) : s.setReg .I5 w = { s with rI5 := w } := rfl
theorem reg_I6 (s : State) : s.reg .I6 = s.rI6 := rfl
theorem setReg_I6 (s : State) (w : Word) : s.setReg .I6 w = { s with rI6 := w } := rfl
theorem reg_J (s : State) : s.reg .J = s.rJ := rfl
theorem setReg_J (s : State) (w : Word) : s.setReg .J w = { s with rJ := w } := rfl

/-- Two states that agree on every register and every other field are the same state. -/
theorem State.ext_reg {s t : State} (hr : ∀ r, s.reg r = t.reg r) (hov : s.ov = t.ov)
    (hcmp : s.cmp = t.cmp) (hpc : s.pc = t.pc) (hmem : s.mem = t.mem)
    (hper : s.periph = t.periph) (hst : s.status = t.status) : s = t := by
  have hA := hr .A; have hX := hr .X; have h1 := hr .I1; have h2 := hr .I2; have h3 := hr .I3
  have h4 := hr .I4; have h5 := hr .I5; have h6 := hr .I6; have hJ := hr .J
  cases s; cases t
  simp_all [State.reg]

/-! ### `take`, `jumpIf` and `advance` -/

@[simp] theorem take_ov (s : State) (m : Nat) (save : Bool) : (s.take m save).ov = s.ov := by
  unfold State.take; split <;> simp

@[simp] theorem take_cmp (s : State) (m : Nat) (save : Bool) : (s.take m save).cmp = s.cmp := by
  unfold State.take; split <;> simp

@[simp] theorem take_mem (s : State) (m : Nat) (save : Bool) : (s.take m save).mem = s.mem := by
  unfold State.take; split <;> simp

@[simp] theorem take_periph (s : State) (m : Nat) (save : Bool) : (s.take m save).periph = s.periph := by
  unfold State.take; split <;> simp

@[simp] theorem take_status (s : State) (m : Nat) (save : Bool) : (s.take m save).status = s.status := by
  unfold State.take; split <;> simp

@[simp] theorem jumpIf_ov (s : State) (taken : Bool) (m : Nat) (save : Bool) : (s.jumpIf taken m save).ov = s.ov := by
  unfold State.jumpIf; split <;> simp

@[simp] theorem jumpIf_cmp (s : State) (taken : Bool) (m : Nat) (save : Bool) : (s.jumpIf taken m save).cmp = s.cmp := by
  unfold State.jumpIf; split <;> simp

@[simp] theorem jumpIf_mem (s : State) (taken : Bool) (m : Nat) (save : Bool) : (s.jumpIf taken m save).mem = s.mem := by
  unfold State.jumpIf; split <;> simp

@[simp] theorem jumpIf_periph (s : State) (taken : Bool) (m : Nat) (save : Bool) : (s.jumpIf taken m save).periph = s.periph := by
  unfold State.jumpIf; split <;> simp

@[simp] theorem jumpIf_status (s : State) (taken : Bool) (m : Nat) (save : Bool) : (s.jumpIf taken m save).status = s.status := by
  unfold State.jumpIf; split <;> simp

@[simp] theorem take_pc (s : State) (m : Nat) (save : Bool) : (s.take m save).pc = m := by
  unfold State.take; split <;> simp

@[simp] theorem take_reg (s : State) (m : Nat) (save : Bool) (r : Reg) :
    (s.take m save).reg r = if save = true ∧ r = .J then mkword .plus (s.pc + 1) else s.reg r := by
  cases save <;> simp [State.take]

@[simp] theorem jumpIf_pc (s : State) (taken : Bool) (m : Nat) (save : Bool) :
    (s.jumpIf taken m save).pc = if taken then m else s.pc := by
  cases taken <;> simp [State.jumpIf]

@[simp] theorem jumpIf_reg (s : State) (taken : Bool) (m : Nat) (save : Bool) (r : Reg) :
    (s.jumpIf taken m save).reg r =
      if taken = true ∧ save = true ∧ r = .J then mkword .plus (s.pc + 1) else s.reg r := by
  cases taken <;> simp [State.jumpIf]

@[simp] theorem advance_reg (t : State) (r : Reg) : t.advance.reg r = t.reg r := by
  unfold State.advance; split
  · split <;> cases r <;> rfl
  · rfl
  · rfl

@[simp] theorem advance_ov (t : State) : t.advance.ov = t.ov := by
  unfold State.advance; split
  · split <;> rfl
  · rfl
  · rfl

@[simp] theorem advance_cmp (t : State) : t.advance.cmp = t.cmp := by
  unfold State.advance; split
  · split <;> rfl
  · rfl
  · rfl

@[simp] theorem advance_mem (t : State) : t.advance.mem = t.mem := by
  unfold State.advance; split
  · split <;> rfl
  · rfl
  · rfl

@[simp] theorem advance_periph (t : State) : t.advance.periph = t.periph := by
  unfold State.advance; split
  · split <;> rfl
  · rfl
  · rfl

theorem advance_of_running {t : State} (h : t.status = .running) :
    t.advance = if t.pc = 4000 then { t with status := .halted } else { t with pc := t.pc + 1 } := by
  simp [State.advance, h]

theorem advance_of_faulted {t : State} {c : FaultCode} {r : FaultRecord}
    (h : t.status = .faulted c r) : t.advance = t := by
  simp [State.advance, h]

theorem fetchedWord_of_lt {s : State} (h : s.pc < 4000) :
    s.fetchedWord = some (s.mem.read s.pc) := by
  simp [State.fetchedWord, h]

theorem fetchedWord_of_ge {s : State} (h : 4000 ≤ s.pc) : s.fetchedWord = none := by
  simp [State.fetchedWord]; omega

end Sys2Proof.Machine
end

