-- ==== Sys2Proof/Laws/Ops.lean ====
section
/-! SUPPORT. For each shared operation, one lemma that says everything it can do; proofs cite these
instead of unfolding the operation. -/

namespace Sys2Proof.Machine

theorem loadWord_of_lt {s : State} {m : Nat} (h : m < 4000) : s.loadWord m = .ok (s.mem.read m) := by
  simp [State.loadWord, h]

theorem loadWord_of_ge {s : State} {m : Nat} (h : 4000 ≤ m) :
    s.loadWord m = .error { code := .addressOutOfRange, info := m } := by
  simp [State.loadWord]; omega

theorem withMemoryWord_of_lt {s : State} {m : Nat} (h : m < 4000)
    (k : Word → Except Raised State) : s.withMemoryWord m k = s.conclude (k (s.mem.read m)) := by
  simp [State.withMemoryWord, loadWord_of_lt h]

theorem withMemoryWord_of_ge {s : State} {m : Nat} (h : 4000 ≤ m)
    (k : Word → Except Raised State) :
    s.withMemoryWord m k = .next (s.takeFault { code := .addressOutOfRange, info := m }) := by
  simp [State.withMemoryWord, loadWord_of_ge h]

/-- Everything concluding can do. -/
theorem conclude_cases {s t : State} {r : Except Raised State} (h : s.conclude r = .next t) :
    r = .ok t ∨ ∃ e, r = .error e ∧ t = s.takeFault e := by
  rcases r with e | u
  · cases h
    exact .inr ⟨e, rfl, rfl⟩
  · cases h
    exact .inl rfl

/-- Everything an instruction that addresses memory can do: fault on the address, end as its
continuation on the word read ends, or take the fault that continuation raises. -/
theorem withMemoryWord_cases {s t : State} {m : Nat} {k : Word → Except Raised State}
    (h : s.withMemoryWord m k = .next t) :
    (4000 ≤ m ∧ t = s.takeFault { code := .addressOutOfRange, info := m }) ∨
    (m < 4000 ∧ k (s.mem.read m) = .ok t) ∨
    (m < 4000 ∧ ∃ e, k (s.mem.read m) = .error e ∧ t = s.takeFault e) := by
  rcases Nat.lt_or_ge m 4000 with hm | hm
  · rw [withMemoryWord_of_lt hm] at h
    rcases conclude_cases h with h | ⟨e, h1, h2⟩
    · exact .inr (.inl ⟨hm, h⟩)
    · exact .inr (.inr ⟨hm, e, h1, h2⟩)
  · rw [withMemoryWord_of_ge hm] at h
    cases h
    exact .inl ⟨hm, rfl⟩

/-- An offset is a number of two bytes. -/
theorem indexOffset_lt (s : State) (i : Option IndexReg) : s.indexOffset i < 65536 := by
  cases i with
  | none => simp [State.indexOffset]
  | some i => exact windowMag_lt _ 3 2

/-- A resolved address is at most 131070. -/
theorem effAddr_le (s : State) (a : Operand) : s.effAddr a ≤ 131070 := by
  have h1 := indexOffset_lt s a.index
  have h2 := a.addr.isLt
  unfold State.effAddr
  omega

/-- Everything the adder can answer for a register. -/
theorem addInto_cases (s : State) (r : Reg) (w : Word) (f : FieldSpec) :
    (f.right = 0 ∧ s.addInto r w f = .error (domainFault f)) ∨
    (f.right ≠ 0 ∧ ∃ res ov, addWords (s.reg r) w f = .ok (res, ov) ∧
      s.addInto r w f = .ok ((s.setReg r res).setOv ov)) := by
  by_cases h : f.right = 0
  · exact .inl ⟨h, by simp [State.addInto, addWords, onlyZero, h]⟩
  · rcases hr : addWords (s.reg r) w f with e | ⟨res, ov⟩
    · simp [addWords, onlyZero, h] at hr
    · exact .inr ⟨h, res, ov, rfl, by simp only [State.addInto, hr]⟩

/-- Everything the multiplier can answer. -/
theorem multiplyInto_cases (s : State) (w : Word) (f : FieldSpec) :
    (f.right = 0 ∧ s.multiplyInto w f = .error (domainFault f)) ∨
    (f.right ≠ 0 ∧ ∃ u l, multiplyWords (s.reg .A) w f = .ok (u, l) ∧
      s.multiplyInto w f = .ok ((s.setReg .A u).setReg .X l)) := by
  by_cases h : f.right = 0
  · exact .inl ⟨h, by simp [State.multiplyInto, multiplyWords, onlyZero, h]⟩
  · rcases hr : multiplyWords (s.reg .A) w f with e | ⟨u, l⟩
    · simp [multiplyWords, onlyZero, h] at hr
    · exact .inr ⟨h, u, l, rfl, by simp only [State.multiplyInto, hr]⟩

/-- Everything the divider can raise. -/
theorem divideWords_error {h l d : Word} {f : FieldSpec} {e : Raised}
    (he : divideWords h l d f = .error e) :
    (f.right = 0 ∧ e = domainFault f) ∨
    (f.right ≠ 0 ∧ 256 ^ 5 ≤ (mag h * 256 ^ 5 + mag l) / (fieldValue d f).natAbs ∧
      e = ⟨.quotientOverflow, (mag h * 256 ^ 5 + mag l) / (fieldValue d f).natAbs⟩) := by
  unfold divideWords at he
  split at he
  · rename_i hz
    cases he
    exact .inl ⟨onlyZero_iff.mp hz, rfl⟩
  · rename_i hz
    dsimp only at he
    split at he
    · cases he
    · split at he
      · rename_i hq
        cases he
        exact .inr ⟨fun h0 => hz (onlyZero_iff.mpr h0), hq, rfl⟩
      · cases he

/-- Everything the divider can answer for rA and rX. -/
theorem divideInto_cases (s : State) (w : Word) (f : FieldSpec) :
    (∃ e, divideWords (s.reg .A) (s.reg .X) w f = .error e ∧ s.divideInto w f = .error e) ∨
    (∃ q r dbz, divideWords (s.reg .A) (s.reg .X) w f = .ok (q, r, dbz) ∧
      s.divideInto w f = .ok (((s.setReg .A q).setReg .X r).setOv dbz)) := by
  rcases hr : divideWords (s.reg .A) (s.reg .X) w f with e | ⟨q, r, dbz⟩
  · exact .inl ⟨e, rfl, by simp only [State.divideInto, hr]⟩
  · exact .inr ⟨q, r, dbz, rfl, by simp only [State.divideInto, hr]⟩

/-- The field check of an index-register load in one lemma (40_datapath.md R103). -/
theorem copyWordFieldsI_error {src dst : Word} {f : FieldSpec} {e : Raised}
    (h : copyWordFieldsI src dst f = .error e) :
    f.left ≠ 0 ∧ (f.right = 0 ∨ hi f < 3) ∧ e = ⟨.invalidFieldSpec, fieldNumber f⟩ := by
  unfold copyWordFieldsI at h
  split at h
  · cases h
  · rename_i hc
    cases h
    simp only [zeroIncluded, onlyZero, Bool.or_eq_true, Bool.and_eq_true, decide_eq_true_eq,
      Bool.not_eq_true', decide_eq_false_iff_not] at hc
    refine ⟨by tauto, ?_, rfl⟩
    by_contra hn
    exact hc (.inr ⟨by tauto, by omega⟩)

end Sys2Proof.Machine
end

