-- ==== Sys2Proof/Laws/Exec.lean ====
section
/-! SUPPORT. What executing one instruction can do, said once for all instructions: it always answers
a next state, and that state either is the state before with a fault taken, or differs from it in
registers, flags, at most one memory word and the pc. -/

namespace Sys2Proof.Machine

theorem conclude_next (s : State) (r : Except Raised State) : ∃ t, s.conclude r = .next t := by
  cases r <;> exact ⟨_, rfl⟩

theorem withMemoryWord_next (s : State) (m : Nat) (k : Word → Except Raised State) :
    ∃ t, s.withMemoryWord m k = .next t := by
  rcases Nat.lt_or_ge m 4000 with h | h
  · exact withMemoryWord_of_lt h k ▸ conclude_next s _
  · exact withMemoryWord_of_ge h k ▸ ⟨_, rfl⟩

/-- No instruction is refused, and none ends without a next state. -/
theorem exec_next (i : Instr) (s : State) : ∃ t, exec i s = .next t := by
  cases i <;> first
    | exact withMemoryWord_next s _ _
    | exact conclude_next s _
    | exact ⟨_, rfl⟩

/-- What an instruction that takes no fault leaves alone or bounds, whatever it is. -/
structure PlainEffect (i : Instr) (s t : State) : Prop where
  status : t.status = s.status
  periph : t.periph = s.periph
  mem : t.mem = s.mem ∨
    ∃ w, s.effAddr i.operand < 4000 ∧ t.mem = s.mem.write (s.effAddr i.operand) w
  pc : t.pc = s.pc ∨ t.pc ≤ 131070

/-- A fault raised by an instruction, in terms of its info. -/
def RaisedFits (s : State) (e : Raised) : Prop :=
  s.pc < 4000 → e.code.infoFits s.pc e.info

/-- An instruction's outcome: a fault that fits, or a plain effect. -/
def Outcome (i : Instr) (s t : State) : Prop :=
  (∃ e, t = s.takeFault e ∧ RaisedFits s e) ∨ PlainEffect i s t

theorem fits_address {s : State} (a : Operand) (h : 4000 ≤ s.effAddr a) :
    RaisedFits s ⟨.addressOutOfRange, s.effAddr a⟩ :=
  fun hp => ⟨hp, h, effAddr_le s a⟩

theorem fits_domain {s : State} {f : FieldSpec} (hv : f.valid = true) (h : f.right = 0) :
    RaisedFits s (domainFault f) := by
  intro hp
  have := (valid_iff.mp hv).1
  exact ⟨hp, show 8 * f.left + f.right = 0 by omega⟩

/-- The outcome of an instruction that addresses memory, from the outcome of its continuation. -/
theorem outcome_withMemoryWord {i : Instr} {s t : State} {k : Word → Except Raised State}
    (h : s.withMemoryWord (s.effAddr i.operand) k = .next t)
    (hok : ∀ w u, s.effAddr i.operand < 4000 → k w = .ok u → PlainEffect i s u)
    (herr : ∀ w e, k w = .error e → RaisedFits s e) : Outcome i s t := by
  rcases withMemoryWord_cases h with ⟨hm, rfl⟩ | ⟨hm, hk⟩ | ⟨_, e, hk, rfl⟩
  · exact .inl ⟨_, rfl, fits_address _ hm⟩
  · exact .inr (hok _ _ hm hk)
  · exact .inl ⟨e, rfl, herr _ _ hk⟩

theorem outcome_addInto {i : Instr} {s t : State} {r : Reg} {w : Word} {f : FieldSpec}
    (h : s.addInto r w f = .ok t) : PlainEffect i s t := by
  rcases addInto_cases s r w f with ⟨_, h'⟩ | ⟨_, res, ov, _, h'⟩ <;> rw [h'] at h <;> cases h
  exact ⟨by simp, by simp, .inl (by simp), .inl (by simp)⟩

theorem fits_addInto {s : State} {r : Reg} {w : Word} {f : FieldSpec} {e : Raised}
    (hv : f.valid = true) (h : s.addInto r w f = .error e) : RaisedFits s e := by
  rcases addInto_cases s r w f with ⟨h0, h'⟩ | ⟨_, _, _, _, h'⟩ <;> rw [h'] at h <;> cases h
  exact fits_domain hv h0

theorem outcome_multiplyInto {i : Instr} {s t : State} {w : Word} {f : FieldSpec}
    (h : s.multiplyInto w f = .ok t) : PlainEffect i s t := by
  rcases multiplyInto_cases s w f with ⟨_, h'⟩ | ⟨_, u, l, _, h'⟩ <;> rw [h'] at h <;> cases h
  exact ⟨by simp, by simp, .inl (by simp), .inl (by simp)⟩

theorem fits_multiplyInto {s : State} {w : Word} {f : FieldSpec} {e : Raised}
    (hv : f.valid = true) (h : s.multiplyInto w f = .error e) : RaisedFits s e := by
  rcases multiplyInto_cases s w f with ⟨h0, h'⟩ | ⟨_, _, _, _, h'⟩ <;> rw [h'] at h <;> cases h
  exact fits_domain hv h0

theorem outcome_divideInto {i : Instr} {s t : State} {w : Word} {f : FieldSpec}
    (h : s.divideInto w f = .ok t) : PlainEffect i s t := by
  rcases divideInto_cases s w f with ⟨e, _, h'⟩ | ⟨q, r, d, _, h'⟩ <;> rw [h'] at h <;> cases h
  exact ⟨by simp, by simp, .inl (by simp), .inl (by simp)⟩

theorem fits_divideInto {s : State} {w : Word} {f : FieldSpec} {e : Raised}
    (hv : f.valid = true) (h : s.divideInto w f = .error e) : RaisedFits s e := by
  rcases divideInto_cases s w f with ⟨e', hd, h'⟩ | ⟨_, _, _, _, h'⟩ <;> rw [h'] at h <;> cases h
  rcases divideWords_error hd with ⟨h0, rfl⟩ | ⟨_, hq, rfl⟩
  · exact fits_domain hv h0
  · intro hp
    refine ⟨hp, hq, Nat.lt_of_le_of_lt (Nat.div_le_self _ _) ?_⟩
    have h1 := mag_lt (s.reg .A)
    have h2 := mag_lt (s.reg .X)
    omega

/-- The plain effect of writing one register. -/
theorem plain_setReg (i : Instr) (s : State) (r : Reg) (w : Word) :
    PlainEffect i s (s.setReg r w) :=
  ⟨by simp, by simp, .inl (by simp), .inl (by simp)⟩

/-- The six valid windows that an index-register load may not use. -/
theorem fits_copyI {s : State} {src dst : Word} {f : FieldSpec} {e : Raised}
    (hv : f.valid = true) (h : copyWordFieldsI src dst f = .error e) : RaisedFits s e := by
  intro hp
  obtain ⟨hl, hr, rfl⟩ := copyWordFieldsI_error h
  obtain ⟨h1, h2⟩ := valid_iff.mp hv
  have h3 : f.right ≤ 3 := by
    rcases hr with hr | hr
    · omega
    · simp only [hi] at hr; omega
  refine ⟨hp, ?_⟩
  obtain ⟨l, r⟩ := f
  simp only at hl h1 h2 h3
  interval_cases r <;> interval_cases l <;> simp_all [fieldNumber]

theorem outcome_load {i : Instr} {s t : State} {r : Reg} {f : FieldSpec}
    (h : s.load r i.operand f = .next t) : Outcome i s t :=
  outcome_withMemoryWord h (fun _ _ _ hk => by cases hk; exact plain_setReg i s _ _)
    (fun _ _ hk => by cases hk)

theorem outcome_loadNegated {i : Instr} {s t : State} {r : Reg} {f : FieldSpec}
    (h : s.loadNegated r i.operand f = .next t) : Outcome i s t :=
  outcome_withMemoryWord h (fun _ _ _ hk => by cases hk; exact plain_setReg i s _ _)
    (fun _ _ hk => by cases hk)

theorem outcome_loadIndex {i : Instr} {s t : State} {r : IndexReg} {f : FieldSpec}
    (hv : f.valid = true) (h : s.loadIndex r i.operand f = .next t) : Outcome i s t := by
  refine outcome_withMemoryWord h (fun w _ _ hk => ?_) (fun w _ hk => ?_) <;>
    rcases hc : copyWordFieldsI w (s.reg (indexReg r)) f with e | u <;> rw [hc] at hk <;> cases hk
  · exact plain_setReg i s _ _
  · exact fits_copyI hv hc

theorem outcome_loadIndexNegated {i : Instr} {s t : State} {r : IndexReg} {f : FieldSpec}
    (hv : f.valid = true) (h : s.loadIndexNegated r i.operand f = .next t) : Outcome i s t := by
  refine outcome_withMemoryWord h (fun w _ _ hk => ?_) (fun w _ hk => ?_) <;>
    rcases hc : copyWordFieldsI w (s.reg (indexReg r)) f with e | u <;> rw [hc] at hk <;> cases hk
  · exact plain_setReg i s _ _
  · exact fits_copyI hv hc

theorem outcome_store {i : Instr} {s t : State} {src : Word} {f : FieldSpec}
    (h : s.store src i.operand f = .next t) : Outcome i s t :=
  outcome_withMemoryWord h
    (fun _ _ hm hk => by
      cases hk
      exact ⟨rfl, rfl, .inr ⟨_, hm, rfl⟩, .inl rfl⟩)
    (fun _ _ hk => by cases hk)

theorem outcome_compare {i : Instr} {s t : State} {r : Reg} {f : FieldSpec}
    (h : s.compare r i.operand f = .next t) : Outcome i s t :=
  outcome_withMemoryWord h (fun _ _ _ hk => by cases hk; exact ⟨rfl, rfl, .inl rfl, .inl rfl⟩)
    (fun _ _ hk => by cases hk)

/-- INC and DEC never fault: their window is the whole word. -/
theorem outcome_addImmediate {i : Instr} {s t : State} {r : Reg} {w : Word}
    (h : s.conclude (s.addInto r w wholeWord) = .next t) : Outcome i s t := by
  rcases conclude_cases h with h | ⟨e, he, rfl⟩
  · exact .inr (outcome_addInto h)
  · exact .inl ⟨e, rfl, fits_addInto rfl he⟩

theorem plain_jumpIf (i : Instr) (s : State) (taken : Bool) (a : Operand) (save : Bool) :
    PlainEffect i s (s.jumpIf taken (s.effAddr a) save) := by
  refine ⟨by simp, by simp, .inl (by simp), ?_⟩
  cases taken
  · exact .inl (by simp)
  · exact .inr (by simpa using effAddr_le s a)

theorem outcome_overflowJump {i : Instr} {s t : State} {taken : Bool} {a : Operand}
    (h : s.overflowJump taken a = .next t) : Outcome i s t := by
  cases h
  refine .inr ⟨by simp, by simp, .inl (by simp), ?_⟩
  cases taken
  · exact .inl (by simp)
  · exact .inr (by simpa using effAddr_le s a)

theorem outcome_enterNegative {i : Instr} {s t : State} {r : Reg} {a : Operand}
    (h : s.enterNegative r a = .next t) : Outcome i s t := by
  cases h
  right
  split
  · exact plain_setReg i s _ _
  · exact ⟨rfl, rfl, .inl rfl, .inl rfl⟩

/-- Everything executing a well-formed instruction can do. -/
theorem exec_outcome {i : Instr} {s t : State} (hw : i.wellFormed = true)
    (h : exec i s = .next t) : Outcome i s t := by
  cases i
  case add a f | sub a f =>
    exact outcome_withMemoryWord h (fun _ _ _ => outcome_addInto) (fun _ _ => fits_addInto hw)
  case mul a f =>
    exact outcome_withMemoryWord h (fun _ _ _ => outcome_multiplyInto)
      (fun _ _ => fits_multiplyInto hw)
  case div a f =>
    exact outcome_withMemoryWord h (fun _ _ _ => outcome_divideInto)
      (fun _ _ => fits_divideInto hw)
  case lda a f | ldx a f =>
    exact outcome_load h
  case ldan a f | ldxn a f =>
    exact outcome_loadNegated h
  case ld1 a f | ld2 a f | ld3 a f | ld4 a f | ld5 a f | ld6 a f =>
    exact outcome_loadIndex hw h
  case ld1n a f | ld2n a f | ld3n a f | ld4n a f | ld5n a f | ld6n a f =>
    exact outcome_loadIndexNegated hw h
  case sta a f | stx a f | stj a f | stz a f | st1 a f | st2 a f | st3 a f | st4 a f | st5 a f |
      st6 a f =>
    exact outcome_store h
  case cmpa a f | cmpx a f | cmp1 a f | cmp2 a f | cmp3 a f | cmp4 a f | cmp5 a f | cmp6 a f =>
    exact outcome_compare h
  case inca a | incx a | inc1 a | inc2 a | inc3 a | inc4 a | inc5 a | inc6 a | deca a | decx a |
      dec1 a | dec2 a | dec3 a | dec4 a | dec5 a | dec6 a =>
    exact outcome_addImmediate h
  case enna a | ennx a | enn1 a | enn2 a | enn3 a | enn4 a | enn5 a | enn6 a =>
    exact outcome_enterNegative h
  case enta a | entx a | ent1 a | ent2 a | ent3 a | ent4 a | ent5 a | ent6 a | sla a | sra a |
      slc a | src a =>
    cases h
    exact .inr (plain_setReg _ s _ _)
  case slax a | srax a =>
    cases h
    exact .inr ⟨by simp, by simp, .inl (by simp), .inl (by simp)⟩
  case jov a | jnov a =>
    exact outcome_overflowJump h
  case nop a f =>
    cases h
    exact .inr ⟨rfl, rfl, .inl rfl, .inl rfl⟩
  case nopUnmapped a c f =>
    cases h
    exact .inr ⟨rfl, rfl, .inl rfl, .inl rfl⟩
  case hlt a =>
    cases h
    exact .inr ⟨rfl, rfl, .inl rfl, .inr (show 4000 ≤ 131070 by decide)⟩
  all_goals
    cases h
    exact .inr (plain_jumpIf _ s _ _ _)

end Sys2Proof.Machine
end

