-- ==== Sys2Proof/Laws/PerInstr.lean ====
section
/-! SUPPORT. What holds of every instruction as syntax, one lemma per constructor of `Instr`. -/

/-! ### Family EncodedOperand: the encoder puts the instruction's operand, and nothing else, in the
fields S, AA and I of the word (30_encoding.md R70). -/

def Sys2Proof.Laws.EncodedOperand.Statement (i : Sys2Proof.Instr) : Prop :=
  ∃ f c, Sys2Proof.encode i = Sys2Proof.instrWord i.operand f c

namespace Sys2Proof.Laws.EncodedOperand

open Sys2Proof

theorem nop (a : Operand) (f : Byte) : Statement (.nop a f) := ⟨_, _, rfl⟩
theorem add (a : Operand) (f : FieldSpec) : Statement (.add a f) := ⟨_, _, rfl⟩
theorem sub (a : Operand) (f : FieldSpec) : Statement (.sub a f) := ⟨_, _, rfl⟩
theorem mul (a : Operand) (f : FieldSpec) : Statement (.mul a f) := ⟨_, _, rfl⟩
theorem div (a : Operand) (f : FieldSpec) : Statement (.div a f) := ⟨_, _, rfl⟩
theorem hlt (a : Operand) : Statement (.hlt a) := ⟨_, _, rfl⟩
theorem sla (a : Operand) : Statement (.sla a) := ⟨_, _, rfl⟩
theorem sra (a : Operand) : Statement (.sra a) := ⟨_, _, rfl⟩
theorem slax (a : Operand) : Statement (.slax a) := ⟨_, _, rfl⟩
theorem srax (a : Operand) : Statement (.srax a) := ⟨_, _, rfl⟩
theorem slc (a : Operand) : Statement (.slc a) := ⟨_, _, rfl⟩
theorem src (a : Operand) : Statement (.src a) := ⟨_, _, rfl⟩
theorem lda (a : Operand) (f : FieldSpec) : Statement (.lda a f) := ⟨_, _, rfl⟩
theorem ld1 (a : Operand) (f : FieldSpec) : Statement (.ld1 a f) := ⟨_, _, rfl⟩
theorem ld2 (a : Operand) (f : FieldSpec) : Statement (.ld2 a f) := ⟨_, _, rfl⟩
theorem ld3 (a : Operand) (f : FieldSpec) : Statement (.ld3 a f) := ⟨_, _, rfl⟩
theorem ld4 (a : Operand) (f : FieldSpec) : Statement (.ld4 a f) := ⟨_, _, rfl⟩
theorem ld5 (a : Operand) (f : FieldSpec) : Statement (.ld5 a f) := ⟨_, _, rfl⟩
theorem ld6 (a : Operand) (f : FieldSpec) : Statement (.ld6 a f) := ⟨_, _, rfl⟩
theorem ldx (a : Operand) (f : FieldSpec) : Statement (.ldx a f) := ⟨_, _, rfl⟩
theorem ldan (a : Operand) (f : FieldSpec) : Statement (.ldan a f) := ⟨_, _, rfl⟩
theorem ld1n (a : Operand) (f : FieldSpec) : Statement (.ld1n a f) := ⟨_, _, rfl⟩
theorem ld2n (a : Operand) (f : FieldSpec) : Statement (.ld2n a f) := ⟨_, _, rfl⟩
theorem ld3n (a : Operand) (f : FieldSpec) : Statement (.ld3n a f) := ⟨_, _, rfl⟩
theorem ld4n (a : Operand) (f : FieldSpec) : Statement (.ld4n a f) := ⟨_, _, rfl⟩
theorem ld5n (a : Operand) (f : FieldSpec) : Statement (.ld5n a f) := ⟨_, _, rfl⟩
theorem ld6n (a : Operand) (f : FieldSpec) : Statement (.ld6n a f) := ⟨_, _, rfl⟩
theorem ldxn (a : Operand) (f : FieldSpec) : Statement (.ldxn a f) := ⟨_, _, rfl⟩
theorem sta (a : Operand) (f : FieldSpec) : Statement (.sta a f) := ⟨_, _, rfl⟩
theorem st1 (a : Operand) (f : FieldSpec) : Statement (.st1 a f) := ⟨_, _, rfl⟩
theorem st2 (a : Operand) (f : FieldSpec) : Statement (.st2 a f) := ⟨_, _, rfl⟩
theorem st3 (a : Operand) (f : FieldSpec) : Statement (.st3 a f) := ⟨_, _, rfl⟩
theorem st4 (a : Operand) (f : FieldSpec) : Statement (.st4 a f) := ⟨_, _, rfl⟩
theorem st5 (a : Operand) (f : FieldSpec) : Statement (.st5 a f) := ⟨_, _, rfl⟩
theorem st6 (a : Operand) (f : FieldSpec) : Statement (.st6 a f) := ⟨_, _, rfl⟩
theorem stx (a : Operand) (f : FieldSpec) : Statement (.stx a f) := ⟨_, _, rfl⟩
theorem stj (a : Operand) (f : FieldSpec) : Statement (.stj a f) := ⟨_, _, rfl⟩
theorem stz (a : Operand) (f : FieldSpec) : Statement (.stz a f) := ⟨_, _, rfl⟩
theorem jmp (a : Operand) : Statement (.jmp a) := ⟨_, _, rfl⟩
theorem jsj (a : Operand) : Statement (.jsj a) := ⟨_, _, rfl⟩
theorem jov (a : Operand) : Statement (.jov a) := ⟨_, _, rfl⟩
theorem jnov (a : Operand) : Statement (.jnov a) := ⟨_, _, rfl⟩
theorem jl (a : Operand) : Statement (.jl a) := ⟨_, _, rfl⟩
theorem je (a : Operand) : Statement (.je a) := ⟨_, _, rfl⟩
theorem jg (a : Operand) : Statement (.jg a) := ⟨_, _, rfl⟩
theorem jge (a : Operand) : Statement (.jge a) := ⟨_, _, rfl⟩
theorem jne (a : Operand) : Statement (.jne a) := ⟨_, _, rfl⟩
theorem jle (a : Operand) : Statement (.jle a) := ⟨_, _, rfl⟩
theorem jan (a : Operand) : Statement (.jan a) := ⟨_, _, rfl⟩
theorem jaz (a : Operand) : Statement (.jaz a) := ⟨_, _, rfl⟩
theorem jap (a : Operand) : Statement (.jap a) := ⟨_, _, rfl⟩
theorem jann (a : Operand) : Statement (.jann a) := ⟨_, _, rfl⟩
theorem janz (a : Operand) : Statement (.janz a) := ⟨_, _, rfl⟩
theorem janp (a : Operand) : Statement (.janp a) := ⟨_, _, rfl⟩
theorem j1n (a : Operand) : Statement (.j1n a) := ⟨_, _, rfl⟩
theorem j1z (a : Operand) : Statement (.j1z a) := ⟨_, _, rfl⟩
theorem j1p (a : Operand) : Statement (.j1p a) := ⟨_, _, rfl⟩
theorem j1nn (a : Operand) : Statement (.j1nn a) := ⟨_, _, rfl⟩
theorem j1nz (a : Operand) : Statement (.j1nz a) := ⟨_, _, rfl⟩
theorem j1np (a : Operand) : Statement (.j1np a) := ⟨_, _, rfl⟩
theorem j2n (a : Operand) : Statement (.j2n a) := ⟨_, _, rfl⟩
theorem j2z (a : Operand) : Statement (.j2z a) := ⟨_, _, rfl⟩
theorem j2p (a : Operand) : Statement (.j2p a) := ⟨_, _, rfl⟩
theorem j2nn (a : Operand) : Statement (.j2nn a) := ⟨_, _, rfl⟩
theorem j2nz (a : Operand) : Statement (.j2nz a) := ⟨_, _, rfl⟩
theorem j2np (a : Operand) : Statement (.j2np a) := ⟨_, _, rfl⟩
theorem j3n (a : Operand) : Statement (.j3n a) := ⟨_, _, rfl⟩
theorem j3z (a : Operand) : Statement (.j3z a) := ⟨_, _, rfl⟩
theorem j3p (a : Operand) : Statement (.j3p a) := ⟨_, _, rfl⟩
theorem j3nn (a : Operand) : Statement (.j3nn a) := ⟨_, _, rfl⟩
theorem j3nz (a : Operand) : Statement (.j3nz a) := ⟨_, _, rfl⟩
theorem j3np (a : Operand) : Statement (.j3np a) := ⟨_, _, rfl⟩
theorem j4n (a : Operand) : Statement (.j4n a) := ⟨_, _, rfl⟩
theorem j4z (a : Operand) : Statement (.j4z a) := ⟨_, _, rfl⟩
theorem j4p (a : Operand) : Statement (.j4p a) := ⟨_, _, rfl⟩
theorem j4nn (a : Operand) : Statement (.j4nn a) := ⟨_, _, rfl⟩
theorem j4nz (a : Operand) : Statement (.j4nz a) := ⟨_, _, rfl⟩
theorem j4np (a : Operand) : Statement (.j4np a) := ⟨_, _, rfl⟩
theorem j5n (a : Operand) : Statement (.j5n a) := ⟨_, _, rfl⟩
theorem j5z (a : Operand) : Statement (.j5z a) := ⟨_, _, rfl⟩
theorem j5p (a : Operand) : Statement (.j5p a) := ⟨_, _, rfl⟩
theorem j5nn (a : Operand) : Statement (.j5nn a) := ⟨_, _, rfl⟩
theorem j5nz (a : Operand) : Statement (.j5nz a) := ⟨_, _, rfl⟩
theorem j5np (a : Operand) : Statement (.j5np a) := ⟨_, _, rfl⟩
theorem j6n (a : Operand) : Statement (.j6n a) := ⟨_, _, rfl⟩
theorem j6z (a : Operand) : Statement (.j6z a) := ⟨_, _, rfl⟩
theorem j6p (a : Operand) : Statement (.j6p a) := ⟨_, _, rfl⟩
theorem j6nn (a : Operand) : Statement (.j6nn a) := ⟨_, _, rfl⟩
theorem j6nz (a : Operand) : Statement (.j6nz a) := ⟨_, _, rfl⟩
theorem j6np (a : Operand) : Statement (.j6np a) := ⟨_, _, rfl⟩
theorem jxn (a : Operand) : Statement (.jxn a) := ⟨_, _, rfl⟩
theorem jxz (a : Operand) : Statement (.jxz a) := ⟨_, _, rfl⟩
theorem jxp (a : Operand) : Statement (.jxp a) := ⟨_, _, rfl⟩
theorem jxnn (a : Operand) : Statement (.jxnn a) := ⟨_, _, rfl⟩
theorem jxnz (a : Operand) : Statement (.jxnz a) := ⟨_, _, rfl⟩
theorem jxnp (a : Operand) : Statement (.jxnp a) := ⟨_, _, rfl⟩
theorem inca (a : Operand) : Statement (.inca a) := ⟨_, _, rfl⟩
theorem deca (a : Operand) : Statement (.deca a) := ⟨_, _, rfl⟩
theorem enta (a : Operand) : Statement (.enta a) := ⟨_, _, rfl⟩
theorem enna (a : Operand) : Statement (.enna a) := ⟨_, _, rfl⟩
theorem inc1 (a : Operand) : Statement (.inc1 a) := ⟨_, _, rfl⟩
theorem dec1 (a : Operand) : Statement (.dec1 a) := ⟨_, _, rfl⟩
theorem ent1 (a : Operand) : Statement (.ent1 a) := ⟨_, _, rfl⟩
theorem enn1 (a : Operand) : Statement (.enn1 a) := ⟨_, _, rfl⟩
theorem inc2 (a : Operand) : Statement (.inc2 a) := ⟨_, _, rfl⟩
theorem dec2 (a : Operand) : Statement (.dec2 a) := ⟨_, _, rfl⟩
theorem ent2 (a : Operand) : Statement (.ent2 a) := ⟨_, _, rfl⟩
theorem enn2 (a : Operand) : Statement (.enn2 a) := ⟨_, _, rfl⟩
theorem inc3 (a : Operand) : Statement (.inc3 a) := ⟨_, _, rfl⟩
theorem dec3 (a : Operand) : Statement (.dec3 a) := ⟨_, _, rfl⟩
theorem ent3 (a : Operand) : Statement (.ent3 a) := ⟨_, _, rfl⟩
theorem enn3 (a : Operand) : Statement (.enn3 a) := ⟨_, _, rfl⟩
theorem inc4 (a : Operand) : Statement (.inc4 a) := ⟨_, _, rfl⟩
theorem dec4 (a : Operand) : Statement (.dec4 a) := ⟨_, _, rfl⟩
theorem ent4 (a : Operand) : Statement (.ent4 a) := ⟨_, _, rfl⟩
theorem enn4 (a : Operand) : Statement (.enn4 a) := ⟨_, _, rfl⟩
theorem inc5 (a : Operand) : Statement (.inc5 a) := ⟨_, _, rfl⟩
theorem dec5 (a : Operand) : Statement (.dec5 a) := ⟨_, _, rfl⟩
theorem ent5 (a : Operand) : Statement (.ent5 a) := ⟨_, _, rfl⟩
theorem enn5 (a : Operand) : Statement (.enn5 a) := ⟨_, _, rfl⟩
theorem inc6 (a : Operand) : Statement (.inc6 a) := ⟨_, _, rfl⟩
theorem dec6 (a : Operand) : Statement (.dec6 a) := ⟨_, _, rfl⟩
theorem ent6 (a : Operand) : Statement (.ent6 a) := ⟨_, _, rfl⟩
theorem enn6 (a : Operand) : Statement (.enn6 a) := ⟨_, _, rfl⟩
theorem incx (a : Operand) : Statement (.incx a) := ⟨_, _, rfl⟩
theorem decx (a : Operand) : Statement (.decx a) := ⟨_, _, rfl⟩
theorem entx (a : Operand) : Statement (.entx a) := ⟨_, _, rfl⟩
theorem ennx (a : Operand) : Statement (.ennx a) := ⟨_, _, rfl⟩
theorem cmpa (a : Operand) (f : FieldSpec) : Statement (.cmpa a f) := ⟨_, _, rfl⟩
theorem cmp1 (a : Operand) (f : FieldSpec) : Statement (.cmp1 a f) := ⟨_, _, rfl⟩
theorem cmp2 (a : Operand) (f : FieldSpec) : Statement (.cmp2 a f) := ⟨_, _, rfl⟩
theorem cmp3 (a : Operand) (f : FieldSpec) : Statement (.cmp3 a f) := ⟨_, _, rfl⟩
theorem cmp4 (a : Operand) (f : FieldSpec) : Statement (.cmp4 a f) := ⟨_, _, rfl⟩
theorem cmp5 (a : Operand) (f : FieldSpec) : Statement (.cmp5 a f) := ⟨_, _, rfl⟩
theorem cmp6 (a : Operand) (f : FieldSpec) : Statement (.cmp6 a f) := ⟨_, _, rfl⟩
theorem cmpx (a : Operand) (f : FieldSpec) : Statement (.cmpx a f) := ⟨_, _, rfl⟩
theorem nopUnmapped (a : Operand) (c f : Byte) : Statement (.nopUnmapped a c f) := ⟨_, _, rfl⟩

end Sys2Proof.Laws.EncodedOperand
end

