-- ==== Sys2Proof/Laws/Step.lean ====
section
/-! SUPPORT. What one step can do, said once: it faults at the fetch, faults at decode, or runs the
decoded instruction and advances. -/

namespace Sys2Proof.Machine

/-- Everything a step that answers a next state has done. -/
theorem step_cases {s t : State} (h : step s = .next t) :
    s.status = .running ∧
    ((4000 ≤ s.pc ∧ t = s.takeFault ⟨.fetchOutOfRange, s.pc⟩) ∨
     (s.pc < 4000 ∧ ∃ e, decode (s.mem.read s.pc) = .error e ∧
        t = s.takeFault (raisedByDecode e)) ∨
     (s.pc < 4000 ∧ ∃ i u, decode (s.mem.read s.pc) = .ok i ∧ exec i s = .next u ∧
        t = u.advance)) := by
  unfold step at h
  split at h
  · cases h
  · cases h
  · rename_i hs
    refine ⟨hs, ?_⟩
    rcases Nat.lt_or_ge s.pc 4000 with hp | hp
    · right
      rw [fetchedWord_of_lt hp] at h
      dsimp only at h
      rcases hd : decode (s.mem.read s.pc) with e | i <;> rw [hd] at h <;> dsimp only at h
      · cases h
        exact .inl ⟨hp, e, rfl, rfl⟩
      · obtain ⟨u, hu⟩ := exec_next i s
        rw [hu] at h
        cases h
        exact .inr ⟨hp, i, u, rfl, hu, rfl⟩
    · rw [fetchedWord_of_ge hp] at h
      cases h
      exact .inl ⟨hp, rfl⟩

/-- A running machine always has a next state; it is never refused and never stuck. -/
theorem step_next {s : State} (h : s.status = .running) : ∃ t, step s = .next t := by
  unfold step
  rw [h]
  dsimp only
  split
  · exact ⟨_, rfl⟩
  · split
    · exact ⟨_, rfl⟩
    · rename_i i _
      obtain ⟨u, hu⟩ := exec_next i s
      exact ⟨_, by rw [hu]⟩

end Sys2Proof.Machine
end

