-- ==== Sys2Proof/Laws/Run.lean ====
section
/-! SUPPORT. What the run does, said once: it takes a step while the status is RUNNING, stays at its end
state, and more fuel does not change where it ends; and the induction over a run, packaged once. -/

namespace Sys2Proof.Machine

theorem ended_iff {s : State} : s.ended = true ↔ s.status ≠ .running := by
  unfold State.ended
  split <;> simp_all

@[simp] theorem runSteps_zero (s : State) : runSteps 0 s = s := rfl

theorem runSteps_of_ended {s : State} (h : s.ended = true) (n : Nat) : runSteps n s = s := by
  cases n with
  | zero => rfl
  | succ n =>
    have hs := ended_iff.mp h
    unfold runSteps step
    split
    · rename_i h'
      split at h' <;> first | cases h' | exact absurd ‹_› hs
    · rfl
    · rfl

theorem runSteps_of_step {s t : State} (h : step s = .next t) (n : Nat) :
    runSteps (n + 1) s = runSteps n t := by
  rw [runSteps, h]

theorem runSteps_add (n m : Nat) (s : State) : runSteps (n + m) s = runSteps m (runSteps n s) := by
  induction n generalizing s with
  | zero => rw [Nat.zero_add, runSteps_zero]
  | succ n ih =>
    by_cases h : s.status = .running
    · obtain ⟨t, ht⟩ := step_next h
      rw [Nat.add_right_comm, runSteps_of_step ht, runSteps_of_step ht, ih]
    · have he := ended_iff.mpr h
      simp only [runSteps_of_ended he]

/-- While the run has not ended, its next state is one step further. -/
theorem step_runSteps {n : Nat} {s : State} (h : (runSteps n s).status = .running) :
    step (runSteps n s) = .next (runSteps (n + 1) s) := by
  obtain ⟨t, ht⟩ := step_next h
  rw [runSteps_add, runSteps_of_step ht, runSteps_zero, ht]

theorem run_eq_some {fuel : Nat} {s t : State} :
    run fuel s = some t ↔ runSteps fuel s = t ∧ t.ended = true := by
  unfold run
  constructor
  · intro h
    split at h <;> cases h
    exact ⟨rfl, ‹_›⟩
  · rintro ⟨rfl, h⟩
    rw [if_pos h]

theorem run_eq_none {fuel : Nat} {s : State} :
    run fuel s = none ↔ (runSteps fuel s).status = .running := by
  unfold run
  have := ended_iff (s := runSteps fuel s)
  split <;> simp_all

/-- What holds at the start and is kept by every step holds all along the run. -/
theorem runSteps_induction {P : State → Prop} (hstep : ∀ s t, P s → step s = .next t → P t)
    {s : State} (h : P s) (n : Nat) : P (runSteps n s) := by
  induction n generalizing s with
  | zero => exact h
  | succ n ih =>
    rw [runSteps]
    split
    · exact ih (hstep _ _ h ‹_›)
    · exact h
    · exact h

end Sys2Proof.Machine
end

