-- ==== Sys2Proof/Tests/Slice0.lean ====
section
/-! SUPPORT. The model's own tests: ill-formed terms, a decoded word for every constructor, single steps with
results taken from spec/95_test_vectors.md, and for every statement with hypotheses a witness that meets them. -/

namespace Sys2Proof.Tests

open Sys2Proof Sys2Proof.Machine

/-! ### Helpers -/

/-- `s` with the word `w` at the address `pc`, and the pc there. -/
def placed (pc : Nat) (w : Word) (s : State) : State :=
  (s.setPc pc).writeWord pc w

/-- `s` with the word `w` at the address `a`. -/
def writing (a : Nat) (w : Word) (s : State) : State :=
  s.writeWord a w

/-- The state one step leads to, or the state itself where no step is defined. -/
def stepped (s : State) : State :=
  match step s with
  | .next t => t
  | .fault _ => s
  | .refused _ => s

/-! ### Well-formed terms, one ill-formed term for each check (30_encoding.md R79, R81, R82) -/

theorem test_field_left_above_right :
    (Instr.lda ⟨.plus, 50, none⟩ ⟨5, 4⟩).wellFormed = false := by decide

theorem test_field_right_above_five :
    (Instr.add ⟨.plus, 50, none⟩ ⟨0, 6⟩).wellFormed = false := by decide

theorem test_field_full_word :
    (Instr.add ⟨.plus, 50, none⟩ ⟨0, 5⟩).wellFormed = true := by decide

theorem test_mapped_pair_is_no_catch_all :
    (Instr.nopUnmapped ⟨.plus, 0, none⟩ 1 5).wellFormed = false ∧
    (Instr.nopUnmapped ⟨.plus, 0, none⟩ 5 2).wellFormed = false ∧
    (Instr.nopUnmapped ⟨.plus, 0, none⟩ 6 5).wellFormed = false ∧
    (Instr.nopUnmapped ⟨.plus, 0, none⟩ 39 9).wellFormed = false ∧
    (Instr.nopUnmapped ⟨.plus, 0, none⟩ 48 3).wellFormed = false ∧
    (Instr.nopUnmapped ⟨.plus, 0, none⟩ 0 0).wellFormed = false := by decide

theorem test_unmapped_pairs :
    (Instr.nopUnmapped ⟨.plus, 0, none⟩ 5 3).wellFormed = true ∧
    (Instr.nopUnmapped ⟨.plus, 0, none⟩ 6 6).wellFormed = true ∧
    (Instr.nopUnmapped ⟨.plus, 0, none⟩ 7 0).wellFormed = true ∧
    (Instr.nopUnmapped ⟨.plus, 0, none⟩ 39 10).wellFormed = true ∧
    (Instr.nopUnmapped ⟨.plus, 0, none⟩ 48 4).wellFormed = true ∧
    (Instr.nopUnmapped ⟨.plus, 0, none⟩ 64 255).wellFormed = true := by decide

/-! ### Decoding: every constructor, by a word written out from 30_encoding.md section 4 and R71. The image is
sign, AA, I, F, C: sign `-` is bit 40, AA = 1234H, I = 3, and F = 20 is the field (2:4). -/

/-- The operand of the written-out words. -/
def anOperand : Operand := ⟨.minus, 0x1234, some .i3⟩

theorem test_decode_arithmetic :
    decodeTableWord 48 0x11234031401 = some (.add anOperand ⟨2, 4⟩) ∧
    decodeTableWord 48 0x11234031402 = some (.sub anOperand ⟨2, 4⟩) ∧
    decodeTableWord 48 0x11234031403 = some (.mul anOperand ⟨2, 4⟩) ∧
    decodeTableWord 48 0x11234031404 = some (.div anOperand ⟨2, 4⟩) := by decide

theorem test_decode_control :
    decodeTableWord 48 0x11234031400 = some (.nop anOperand 20) ∧
    decodeTableWord 48 0x11234030205 = some (.hlt anOperand) ∧
    decodeTableWord 48 0x112340314c8 = some (.nopUnmapped anOperand 200 20) := by decide

theorem test_decode_shifts :
    decodeTableWord 48 0x11234030006 = some (.sla anOperand) ∧
    decodeTableWord 48 0x11234030106 = some (.sra anOperand) ∧
    decodeTableWord 48 0x11234030206 = some (.slax anOperand) ∧
    decodeTableWord 48 0x11234030306 = some (.srax anOperand) ∧
    decodeTableWord 48 0x11234030406 = some (.slc anOperand) ∧
    decodeTableWord 48 0x11234030506 = some (.src anOperand) := by decide

theorem test_decode_loads :
    decodeTableWord 48 0x11234031408 = some (.lda anOperand ⟨2, 4⟩) ∧
    decodeTableWord 48 0x11234031409 = some (.ld1 anOperand ⟨2, 4⟩) ∧
    decodeTableWord 48 0x1123403140a = some (.ld2 anOperand ⟨2, 4⟩) ∧
    decodeTableWord 48 0x1123403140b = some (.ld3 anOperand ⟨2, 4⟩) ∧
    decodeTableWord 48 0x1123403140c = some (.ld4 anOperand ⟨2, 4⟩) ∧
    decodeTableWord 48 0x1123403140d = some (.ld5 anOperand ⟨2, 4⟩) ∧
    decodeTableWord 48 0x1123403140e = some (.ld6 anOperand ⟨2, 4⟩) ∧
    decodeTableWord 48 0x1123403140f = some (.ldx anOperand ⟨2, 4⟩) := by decide

theorem test_decode_negative_loads :
    decodeTableWord 48 0x11234031410 = some (.ldan anOperand ⟨2, 4⟩) ∧
    decodeTableWord 48 0x11234031411 = some (.ld1n anOperand ⟨2, 4⟩) ∧
    decodeTableWord 48 0x11234031412 = some (.ld2n anOperand ⟨2, 4⟩) ∧
    decodeTableWord 48 0x11234031413 = some (.ld3n anOperand ⟨2, 4⟩) ∧
    decodeTableWord 48 0x11234031414 = some (.ld4n anOperand ⟨2, 4⟩) ∧
    decodeTableWord 48 0x11234031415 = some (.ld5n anOperand ⟨2, 4⟩) ∧
    decodeTableWord 48 0x11234031416 = some (.ld6n anOperand ⟨2, 4⟩) ∧
    decodeTableWord 48 0x11234031417 = some (.ldxn anOperand ⟨2, 4⟩) := by decide

theorem test_decode_stores :
    decodeTableWord 48 0x11234031418 = some (.sta anOperand ⟨2, 4⟩) ∧
    decodeTableWord 48 0x11234031419 = some (.st1 anOperand ⟨2, 4⟩) ∧
    decodeTableWord 48 0x1123403141a = some (.st2 anOperand ⟨2, 4⟩) ∧
    decodeTableWord 48 0x1123403141b = some (.st3 anOperand ⟨2, 4⟩) ∧
    decodeTableWord 48 0x1123403141c = some (.st4 anOperand ⟨2, 4⟩) ∧
    decodeTableWord 48 0x1123403141d = some (.st5 anOperand ⟨2, 4⟩) ∧
    decodeTableWord 48 0x1123403141e = some (.st6 anOperand ⟨2, 4⟩) ∧
    decodeTableWord 48 0x1123403141f = some (.stx anOperand ⟨2, 4⟩) ∧
    decodeTableWord 48 0x11234031420 = some (.stj anOperand ⟨2, 4⟩) ∧
    decodeTableWord 48 0x11234031421 = some (.stz anOperand ⟨2, 4⟩) := by decide

theorem test_decode_compares :
    decodeTableWord 48 0x11234031438 = some (.cmpa anOperand ⟨2, 4⟩) ∧
    decodeTableWord 48 0x11234031439 = some (.cmp1 anOperand ⟨2, 4⟩) ∧
    decodeTableWord 48 0x1123403143a = some (.cmp2 anOperand ⟨2, 4⟩) ∧
    decodeTableWord 48 0x1123403143b = some (.cmp3 anOperand ⟨2, 4⟩) ∧
    decodeTableWord 48 0x1123403143c = some (.cmp4 anOperand ⟨2, 4⟩) ∧
    decodeTableWord 48 0x1123403143d = some (.cmp5 anOperand ⟨2, 4⟩) ∧
    decodeTableWord 48 0x1123403143e = some (.cmp6 anOperand ⟨2, 4⟩) ∧
    decodeTableWord 48 0x1123403143f = some (.cmpx anOperand ⟨2, 4⟩) := by decide

theorem test_decode_transfers_of_rA_and_rX :
    decodeTableWord 48 0x11234030030 = some (.inca anOperand) ∧
    decodeTableWord 48 0x11234030130 = some (.deca anOperand) ∧
    decodeTableWord 48 0x11234030230 = some (.enta anOperand) ∧
    decodeTableWord 48 0x11234030330 = some (.enna anOperand) ∧
    decodeTableWord 48 0x11234030037 = some (.incx anOperand) ∧
    decodeTableWord 48 0x11234030137 = some (.decx anOperand) ∧
    decodeTableWord 48 0x11234030237 = some (.entx anOperand) ∧
    decodeTableWord 48 0x11234030337 = some (.ennx anOperand) := by decide

theorem test_decode_transfers_of_index_registers :
    decodeTableWord 48 0x11234030031 = some (.inc1 anOperand) ∧
    decodeTableWord 48 0x11234030131 = some (.dec1 anOperand) ∧
    decodeTableWord 48 0x11234030231 = some (.ent1 anOperand) ∧
    decodeTableWord 48 0x11234030331 = some (.enn1 anOperand) ∧
    decodeTableWord 48 0x11234030032 = some (.inc2 anOperand) ∧
    decodeTableWord 48 0x11234030132 = some (.dec2 anOperand) ∧
    decodeTableWord 48 0x11234030232 = some (.ent2 anOperand) ∧
    decodeTableWord 48 0x11234030332 = some (.enn2 anOperand) ∧
    decodeTableWord 48 0x11234030033 = some (.inc3 anOperand) ∧
    decodeTableWord 48 0x11234030133 = some (.dec3 anOperand) ∧
    decodeTableWord 48 0x11234030233 = some (.ent3 anOperand) ∧
    decodeTableWord 48 0x11234030333 = some (.enn3 anOperand) ∧
    decodeTableWord 48 0x11234030034 = some (.inc4 anOperand) ∧
    decodeTableWord 48 0x11234030134 = some (.dec4 anOperand) ∧
    decodeTableWord 48 0x11234030234 = some (.ent4 anOperand) ∧
    decodeTableWord 48 0x11234030334 = some (.enn4 anOperand) ∧
    decodeTableWord 48 0x11234030035 = some (.inc5 anOperand) ∧
    decodeTableWord 48 0x11234030135 = some (.dec5 anOperand) ∧
    decodeTableWord 48 0x11234030235 = some (.ent5 anOperand) ∧
    decodeTableWord 48 0x11234030335 = some (.enn5 anOperand) ∧
    decodeTableWord 48 0x11234030036 = some (.inc6 anOperand) ∧
    decodeTableWord 48 0x11234030136 = some (.dec6 anOperand) ∧
    decodeTableWord 48 0x11234030236 = some (.ent6 anOperand) ∧
    decodeTableWord 48 0x11234030336 = some (.enn6 anOperand) := by decide

theorem test_decode_jumps :
    decodeTableWord 48 0x11234030027 = some (.jmp anOperand) ∧
    decodeTableWord 48 0x11234030127 = some (.jsj anOperand) ∧
    decodeTableWord 48 0x11234030227 = some (.jov anOperand) ∧
    decodeTableWord 48 0x11234030327 = some (.jnov anOperand) ∧
    decodeTableWord 48 0x11234030427 = some (.jl anOperand) ∧
    decodeTableWord 48 0x11234030527 = some (.je anOperand) ∧
    decodeTableWord 48 0x11234030627 = some (.jg anOperand) ∧
    decodeTableWord 48 0x11234030727 = some (.jge anOperand) ∧
    decodeTableWord 48 0x11234030827 = some (.jne anOperand) ∧
    decodeTableWord 48 0x11234030927 = some (.jle anOperand) := by decide

theorem test_decode_jumps_on_rA_and_rX :
    decodeTableWord 48 0x11234030028 = some (.jan anOperand) ∧
    decodeTableWord 48 0x11234030128 = some (.jaz anOperand) ∧
    decodeTableWord 48 0x11234030228 = some (.jap anOperand) ∧
    decodeTableWord 48 0x11234030328 = some (.jann anOperand) ∧
    decodeTableWord 48 0x11234030428 = some (.janz anOperand) ∧
    decodeTableWord 48 0x11234030528 = some (.janp anOperand) ∧
    decodeTableWord 48 0x1123403002f = some (.jxn anOperand) ∧
    decodeTableWord 48 0x1123403012f = some (.jxz anOperand) ∧
    decodeTableWord 48 0x1123403022f = some (.jxp anOperand) ∧
    decodeTableWord 48 0x1123403032f = some (.jxnn anOperand) ∧
    decodeTableWord 48 0x1123403042f = some (.jxnz anOperand) ∧
    decodeTableWord 48 0x1123403052f = some (.jxnp anOperand) := by decide

theorem test_decode_jumps_on_index_registers :
    decodeTableWord 48 0x11234030029 = some (.j1n anOperand) ∧
    decodeTableWord 48 0x11234030129 = some (.j1z anOperand) ∧
    decodeTableWord 48 0x11234030229 = some (.j1p anOperand) ∧
    decodeTableWord 48 0x11234030329 = some (.j1nn anOperand) ∧
    decodeTableWord 48 0x11234030429 = some (.j1nz anOperand) ∧
    decodeTableWord 48 0x11234030529 = some (.j1np anOperand) ∧
    decodeTableWord 48 0x1123403002a = some (.j2n anOperand) ∧
    decodeTableWord 48 0x1123403012a = some (.j2z anOperand) ∧
    decodeTableWord 48 0x1123403022a = some (.j2p anOperand) ∧
    decodeTableWord 48 0x1123403032a = some (.j2nn anOperand) ∧
    decodeTableWord 48 0x1123403042a = some (.j2nz anOperand) ∧
    decodeTableWord 48 0x1123403052a = some (.j2np anOperand) ∧
    decodeTableWord 48 0x1123403002b = some (.j3n anOperand) ∧
    decodeTableWord 48 0x1123403012b = some (.j3z anOperand) ∧
    decodeTableWord 48 0x1123403022b = some (.j3p anOperand) ∧
    decodeTableWord 48 0x1123403032b = some (.j3nn anOperand) ∧
    decodeTableWord 48 0x1123403042b = some (.j3nz anOperand) ∧
    decodeTableWord 48 0x1123403052b = some (.j3np anOperand) ∧
    decodeTableWord 48 0x1123403002c = some (.j4n anOperand) ∧
    decodeTableWord 48 0x1123403012c = some (.j4z anOperand) ∧
    decodeTableWord 48 0x1123403022c = some (.j4p anOperand) ∧
    decodeTableWord 48 0x1123403032c = some (.j4nn anOperand) ∧
    decodeTableWord 48 0x1123403042c = some (.j4nz anOperand) ∧
    decodeTableWord 48 0x1123403052c = some (.j4np anOperand) ∧
    decodeTableWord 48 0x1123403002d = some (.j5n anOperand) ∧
    decodeTableWord 48 0x1123403012d = some (.j5z anOperand) ∧
    decodeTableWord 48 0x1123403022d = some (.j5p anOperand) ∧
    decodeTableWord 48 0x1123403032d = some (.j5nn anOperand) ∧
    decodeTableWord 48 0x1123403042d = some (.j5nz anOperand) ∧
    decodeTableWord 48 0x1123403052d = some (.j5np anOperand) ∧
    decodeTableWord 48 0x1123403002e = some (.j6n anOperand) ∧
    decodeTableWord 48 0x1123403012e = some (.j6z anOperand) ∧
    decodeTableWord 48 0x1123403022e = some (.j6p anOperand) ∧
    decodeTableWord 48 0x1123403032e = some (.j6nn anOperand) ∧
    decodeTableWord 48 0x1123403042e = some (.j6nz anOperand) ∧
    decodeTableWord 48 0x1123403052e = some (.j6np anOperand) := by decide

theorem test_decode_all_zero_word :
    decodeTableWord 48 0 = some (.nop ⟨.plus, 0, none⟩ 0) := by decide

theorem test_decode_refuses_no_word :
    decodeTableWord 48 0x20000000000 = none ∧ decodeTableWord 48 0x0000070001 = none := by decide

/-! ### Single steps: results from spec/95_test_vectors.md, whose row each test names -/

/-- AR1: `ADD 100`. -/
theorem test_add_mixed_signs :
    (fun t => (t.rA, t.ov, t.pc)) (stepped (writing 100 ⟨.minus, 1, 2, 3, 4, 5⟩ (placed 0 ⟨.plus, 0, 100, 0, 5, 1⟩ { State.reset with rA := ⟨.plus, 0, 0, 0, 9, 1⟩, ov := false }))) =
    (⟨.minus, 1, 2, 2, 251, 4⟩, false, 1) := by
  decide

/-- AR2: `ADD 100`. -/
theorem test_add_overflow_wraps :
    (fun t => (t.rA, t.ov, t.pc)) (stepped (writing 100 ⟨.plus, 0, 0, 0, 0, 1⟩ (placed 0 ⟨.plus, 0, 100, 0, 5, 1⟩ { State.reset with rA := ⟨.plus, 255, 255, 255, 255, 255⟩, ov := false }))) =
    (⟨.plus, 0, 0, 0, 0, 0⟩, true, 1) := by
  decide

/-- AR4: `ADD 100(4:5)`. -/
theorem test_add_window_overflow_keeps_outside :
    (fun t => (t.rA, t.ov, t.pc)) (stepped (writing 100 ⟨.minus, 9, 9, 9, 0, 1⟩ (placed 0 ⟨.plus, 0, 100, 0, 37, 1⟩ { State.reset with rA := ⟨.plus, 1, 2, 3, 255, 255⟩, ov := false }))) =
    (⟨.plus, 1, 2, 3, 0, 0⟩, true, 1) := by
  decide

/-- AR8: `ADD 100(0:0)`. -/
theorem test_add_sign_only_faults :
    (stepped (writing 100 ⟨.plus, 0, 0, 0, 0, 5⟩ (placed 0 ⟨.plus, 0, 100, 0, 0, 1⟩ { State.reset with rA := ⟨.plus, 0, 0, 0, 0, 5⟩ }))).status =
    .faulted .arithmeticDomainFault ⟨0, some ⟨.plus, 0, 100, 0, 0, 1⟩, 0⟩ := by
  decide

/-- AR11: `SUB 200`. -/
theorem test_sub_changes_sign :
    (fun t => (t.rA, t.ov, t.pc)) (stepped (writing 200 ⟨.plus, 0, 0, 0, 0, 10⟩ (placed 0 ⟨.plus, 0, 200, 0, 5, 2⟩ { State.reset with rA := ⟨.plus, 0, 0, 0, 0, 3⟩, ov := false }))) =
    (⟨.minus, 0, 0, 0, 0, 7⟩, false, 1) := by
  decide

/-- AR12: `SUB 200`. -/
theorem test_sub_overflow :
    (fun t => (t.rA, t.ov, t.pc)) (stepped (writing 200 ⟨.plus, 0, 0, 0, 0, 1⟩ (placed 0 ⟨.plus, 0, 200, 0, 5, 2⟩ { State.reset with rA := ⟨.minus, 255, 255, 255, 255, 255⟩, ov := false }))) =
    (⟨.minus, 0, 0, 0, 0, 0⟩, true, 1) := by
  decide

/-- AR14: `MUL 300`. -/
theorem test_mul_negates_operand :
    (fun t => (t.rA, t.rX, t.pc)) (stepped (writing 300 ⟨.plus, 0, 0, 0, 0, 3⟩ (placed 0 ⟨.plus, 1, 44, 0, 5, 3⟩ { State.reset with rA := ⟨.plus, 0, 0, 0, 0, 2⟩, ov := false }))) =
    (⟨.minus, 0, 0, 0, 0, 0⟩, ⟨.minus, 0, 0, 0, 0, 6⟩, 1) := by
  decide

/-- AR17: `MUL 300`. -/
theorem test_mul_largest_product :
    (fun t => (t.rA, t.rX, t.pc)) (stepped (writing 300 ⟨.plus, 255, 255, 255, 255, 255⟩ (placed 0 ⟨.plus, 1, 44, 0, 5, 3⟩ { State.reset with rA := ⟨.plus, 255, 255, 255, 255, 255⟩ }))) =
    (⟨.minus, 255, 255, 255, 255, 254⟩, ⟨.minus, 0, 0, 0, 0, 1⟩, 1) := by
  decide

/-- AR22: `DIV 400`. -/
theorem test_div_quotient_and_remainder :
    (fun t => (t.rA, t.rX, t.pc)) (stepped (writing 400 ⟨.plus, 0, 0, 0, 0, 3⟩ (placed 0 ⟨.plus, 1, 144, 0, 5, 4⟩ { State.reset with rA := ⟨.plus, 0, 0, 0, 0, 0⟩, rX := ⟨.minus, 0, 0, 0, 0, 17⟩, ov := false }))) =
    (⟨.plus, 0, 0, 0, 0, 5⟩, ⟨.plus, 0, 0, 0, 0, 2⟩, 1) := by
  decide

/-- AR24: `DIV 400`. -/
theorem test_div_quotient_overflow_faults :
    (stepped (writing 400 ⟨.plus, 0, 0, 0, 0, 3⟩ (placed 0 ⟨.plus, 1, 144, 0, 5, 4⟩ { State.reset with rA := ⟨.plus, 0, 0, 0, 0, 3⟩, rX := ⟨.plus, 0, 0, 0, 0, 0⟩ }))).status =
    .faulted .quotientOverflow ⟨0, some ⟨.plus, 1, 144, 0, 5, 4⟩, 1099511627776⟩ := by
  decide

/-- LS2: `LDA 50(1:2)`. -/
theorem test_lda_bytes_in_place :
    (fun t => (t.rA, t.pc)) (stepped (writing 50 ⟨.minus, 1, 2, 3, 4, 5⟩ (placed 0 ⟨.plus, 0, 50, 0, 10, 8⟩ { State.reset with rA := ⟨.plus, 9, 9, 9, 9, 9⟩ }))) =
    (⟨.plus, 1, 2, 9, 9, 9⟩, 1) := by
  decide

/-- LS5: `LDA 4000`. -/
theorem test_lda_address_out_of_range :
    (stepped (placed 0 ⟨.plus, 15, 160, 0, 5, 8⟩ { State.reset with rA := ⟨.plus, 9, 9, 9, 9, 9⟩ })).status =
    .faulted .addressOutOfRange ⟨0, some ⟨.plus, 15, 160, 0, 5, 8⟩, 4000⟩ := by
  decide

/-- LS6: `LDX 50(3:5)`. -/
theorem test_ldx_keeps_sign :
    (fun t => (t.rX, t.pc)) (stepped (writing 50 ⟨.plus, 1, 2, 3, 4, 5⟩ (placed 0 ⟨.plus, 0, 50, 0, 29, 15⟩ { State.reset with rX := ⟨.minus, 9, 9, 9, 9, 9⟩ }))) =
    (⟨.minus, 9, 9, 3, 4, 5⟩, 1) := by
  decide

/-- LS8: `LDAN 50(1:1)`. -/
theorem test_ldan_flips_kept_sign :
    (fun t => (t.rA, t.pc)) (stepped (writing 50 ⟨.minus, 1, 2, 3, 4, 5⟩ (placed 0 ⟨.plus, 0, 50, 0, 9, 16⟩ { State.reset with rA := ⟨.plus, 9, 9, 9, 9, 9⟩ }))) =
    (⟨.minus, 1, 9, 9, 9, 9⟩, 1) := by
  decide

/-- LS9: `LDXN 50`. -/
theorem test_ldxn_minus_zero :
    (fun t => (t.rX, t.pc)) (stepped (writing 50 ⟨.plus, 0, 0, 0, 0, 0⟩ (placed 0 ⟨.plus, 0, 50, 0, 5, 23⟩ { State.reset with rX := ⟨.plus, 9, 9, 9, 9, 9⟩ }))) =
    (⟨.minus, 0, 0, 0, 0, 0⟩, 1) := by
  decide

/-- LS10: `LD1 60`. -/
theorem test_ld1_full_word :
    (fun t => (t.rI1, t.pc)) (stepped (writing 60 ⟨.minus, 1, 2, 3, 4, 5⟩ (placed 0 ⟨.plus, 0, 60, 0, 5, 9⟩ { State.reset with rI1 := ⟨.plus, 0, 0, 0, 0, 0⟩ }))) =
    (⟨.minus, 1, 2, 3, 4, 5⟩, 1) := by
  decide

/-- LS11: `LD2 60(4:4)`. -/
theorem test_ld2_byte_three :
    (fun t => (t.rI2, t.pc)) (stepped (writing 60 ⟨.minus, 1, 2, 3, 4, 5⟩ (placed 0 ⟨.plus, 0, 60, 0, 36, 10⟩ { State.reset with rI2 := ⟨.plus, 0, 0, 0, 0, 0⟩ }))) =
    (⟨.plus, 0, 0, 0, 4, 0⟩, 1) := by
  decide

/-- LS12: `LD3 60(0:0)`. -/
theorem test_ld3_sign_only :
    (fun t => (t.rI3, t.pc)) (stepped (writing 60 ⟨.minus, 1, 2, 3, 4, 5⟩ (placed 0 ⟨.plus, 0, 60, 0, 0, 11⟩ { State.reset with rI3 := ⟨.plus, 0, 0, 0, 0, 0⟩ }))) =
    (⟨.minus, 0, 0, 0, 0, 0⟩, 1) := by
  decide

/-- LS13: `LD4 60(1:3)`. -/
theorem test_ld4_window_refused :
    (stepped (writing 60 ⟨.minus, 1, 2, 3, 4, 5⟩ (placed 0 ⟨.plus, 0, 60, 0, 11, 12⟩ { State.reset with rI4 := ⟨.plus, 0, 0, 0, 0, 0⟩ }))).status =
    .faulted .invalidFieldSpec ⟨0, some ⟨.plus, 0, 60, 0, 11, 12⟩, 11⟩ := by
  decide

/-- LS14: `LD5N 60(3:3)`. -/
theorem test_ld5n_window_refused :
    (stepped (writing 60 ⟨.minus, 1, 2, 3, 4, 5⟩ (placed 0 ⟨.plus, 0, 60, 0, 27, 21⟩ { State.reset with rI5 := ⟨.plus, 0, 0, 0, 0, 0⟩ }))).status =
    .faulted .invalidFieldSpec ⟨0, some ⟨.plus, 0, 60, 0, 27, 21⟩, 27⟩ := by
  decide

/-- LS15: `LD6N 60(2:5)`. -/
theorem test_ld6n_legal_window :
    (fun t => (t.rI6, t.pc)) (stepped (writing 60 ⟨.minus, 1, 2, 3, 4, 5⟩ (placed 0 ⟨.plus, 0, 60, 0, 21, 22⟩ { State.reset with rI6 := ⟨.plus, 9, 9, 9, 9, 9⟩ }))) =
    (⟨.minus, 9, 2, 3, 4, 5⟩, 1) := by
  decide

/-- LS16: `LD1 5000(1:1)`. -/
theorem test_address_fault_before_window_fault :
    (stepped (placed 0 ⟨.plus, 19, 136, 0, 9, 9⟩ State.reset)).status =
    .faulted .addressOutOfRange ⟨0, some ⟨.plus, 19, 136, 0, 9, 9⟩, 5000⟩ := by
  decide

/-- LS18: `STA 70(5:5)`. -/
theorem test_sta_last_byte :
    (fun t => (t.mem.read 70, t.pc)) (stepped (writing 70 ⟨.minus, 1, 2, 3, 4, 5⟩ (placed 0 ⟨.plus, 0, 70, 0, 45, 24⟩ { State.reset with rA := ⟨.plus, 0, 0, 0, 9, 1⟩ }))) =
    (⟨.minus, 1, 2, 3, 4, 1⟩, 1) := by
  decide

/-- LS20: `STA 70(0:2)`. -/
theorem test_sta_sign_and_two_bytes :
    (fun t => (t.mem.read 70, t.pc)) (stepped (writing 70 ⟨.minus, 9, 9, 9, 9, 9⟩ (placed 0 ⟨.plus, 0, 70, 0, 2, 24⟩ { State.reset with rA := ⟨.plus, 1, 2, 3, 4, 5⟩ }))) =
    (⟨.plus, 4, 5, 9, 9, 9⟩, 1) := by
  decide

/-- LS22: `STX 70(2:4)`. -/
theorem test_stx_right_justified :
    (fun t => (t.mem.read 70, t.pc)) (stepped (writing 70 ⟨.plus, 9, 9, 9, 9, 9⟩ (placed 0 ⟨.plus, 0, 70, 0, 20, 31⟩ { State.reset with rX := ⟨.minus, 1, 2, 3, 4, 5⟩ }))) =
    (⟨.plus, 9, 3, 4, 5, 9⟩, 1) := by
  decide

/-- LS23: `ST3 70(4:5)`. -/
theorem test_st3_two_bytes :
    (fun t => (t.mem.read 70, t.pc)) (stepped (writing 70 ⟨.minus, 9, 9, 9, 9, 9⟩ (placed 0 ⟨.plus, 0, 70, 0, 37, 27⟩ { State.reset with rI3 := ⟨.plus, 0, 0, 0, 1, 2⟩ }))) =
    (⟨.minus, 9, 9, 9, 1, 2⟩, 1) := by
  decide

/-- LS24: `STJ 13(0:2)`. -/
theorem test_stj_patches_address :
    (fun t => (t.mem.read 13, t.pc)) (stepped (writing 13 ⟨.plus, 0, 0, 0, 0, 39⟩ (placed 0 ⟨.plus, 0, 13, 0, 2, 32⟩ { State.reset with rJ := ⟨.plus, 0, 0, 0, 0, 14⟩ }))) =
    (⟨.plus, 0, 14, 0, 0, 39⟩, 1) := by
  decide

/-- LS27: `STZ 73(1:3)`. -/
theorem test_stz_keeps_sign :
    (fun t => (t.mem.read 73, t.pc)) (stepped (writing 73 ⟨.minus, 1, 2, 3, 4, 5⟩ (placed 0 ⟨.plus, 0, 73, 0, 11, 33⟩ State.reset))) =
    (⟨.minus, 0, 0, 0, 4, 5⟩, 1) := by
  decide

/-- LS29: `STA 0,1(0:6)`. -/
theorem test_field_fault_before_address_fault :
    (stepped (placed 0 ⟨.plus, 0, 0, 1, 6, 24⟩ { State.reset with rI1 := ⟨.plus, 0, 0, 0, 15, 160⟩ })).status =
    .faulted .fieldSpecOutOfRange ⟨0, some ⟨.plus, 0, 0, 1, 6, 24⟩, 6⟩ := by
  decide

/-- AT2: `ENTA -0`. -/
theorem test_enta_minus_zero :
    (fun t => (t.rA, t.pc)) (stepped (placed 0 ⟨.minus, 0, 0, 0, 2, 48⟩ { State.reset with rA := ⟨.plus, 1, 2, 3, 4, 5⟩ })) =
    (⟨.minus, 0, 0, 0, 0, 0⟩, 1) := by
  decide

/-- AT4: `ENT1 65535,1`. -/
theorem test_ent1_reads_old_index :
    (fun t => (t.rI1, t.pc)) (stepped (placed 0 ⟨.plus, 255, 255, 1, 2, 49⟩ { State.reset with rI1 := ⟨.plus, 0, 0, 0, 255, 255⟩ })) =
    (⟨.plus, 0, 0, 1, 255, 254⟩, 1) := by
  decide

/-- AT5: `ENTX 300`. -/
theorem test_entx_two_byte_address :
    (fun t => (t.rX, t.pc)) (stepped (placed 0 ⟨.plus, 1, 44, 0, 2, 55⟩ State.reset)) =
    (⟨.plus, 0, 0, 0, 1, 44⟩, 1) := by
  decide

/-- AT9: `INCA 1`. -/
theorem test_inca_overflow :
    (fun t => (t.rA, t.ov, t.pc)) (stepped (placed 0 ⟨.plus, 0, 1, 0, 0, 48⟩ { State.reset with rA := ⟨.plus, 255, 255, 255, 255, 255⟩, ov := false })) =
    (⟨.plus, 0, 0, 0, 0, 0⟩, true, 1) := by
  decide

/-- AT10: `INCA -5`. -/
theorem test_inca_negative_immediate :
    (fun t => (t.rA, t.ov, t.pc)) (stepped (placed 0 ⟨.minus, 0, 5, 0, 0, 48⟩ { State.reset with rA := ⟨.plus, 0, 0, 0, 0, 3⟩, ov := false })) =
    (⟨.minus, 0, 0, 0, 0, 2⟩, false, 1) := by
  decide

/-- AT11: `INCX 5`. -/
theorem test_incx_crosses_zero :
    (fun t => (t.rX, t.ov, t.pc)) (stepped (placed 0 ⟨.plus, 0, 5, 0, 0, 55⟩ { State.reset with rX := ⟨.minus, 0, 0, 0, 0, 3⟩, ov := true })) =
    (⟨.plus, 0, 0, 0, 0, 2⟩, false, 1) := by
  decide

/-- AT13: `DECA 5`. -/
theorem test_deca_crosses_zero :
    (fun t => (t.rA, t.ov, t.pc)) (stepped (placed 0 ⟨.plus, 0, 5, 0, 1, 48⟩ { State.reset with rA := ⟨.plus, 0, 0, 0, 0, 3⟩, ov := false })) =
    (⟨.minus, 0, 0, 0, 0, 2⟩, false, 1) := by
  decide

/-- AT15: `DEC6 -1`. -/
theorem test_dec6_negative_immediate :
    (fun t => (t.rI6, t.ov, t.pc)) (stepped (placed 0 ⟨.minus, 0, 1, 0, 1, 54⟩ { State.reset with rI6 := ⟨.minus, 0, 0, 0, 0, 2⟩, ov := false })) =
    (⟨.minus, 0, 0, 0, 0, 1⟩, false, 1) := by
  decide

/-- AT16: `INCA 0,7`. -/
theorem test_index_seven_faults :
    (stepped (placed 0 ⟨.plus, 0, 0, 7, 0, 48⟩ { State.reset with rA := ⟨.plus, 0, 0, 0, 0, 3⟩ })).status =
    .faulted .invalidIndex ⟨0, some ⟨.plus, 0, 0, 7, 0, 48⟩, 7⟩ := by
  decide

/-- AT17: `(C 48, F 6) 0,1`. -/
theorem test_transfer_sub_code_six :
    (fun t => (t.pc)) (stepped (placed 0 ⟨.plus, 0, 0, 1, 6, 48⟩ { State.reset with rA := ⟨.plus, 0, 0, 0, 0, 3⟩ })) =
    (1) := by
  decide

/-- CM2: `CMPA 80`. -/
theorem test_cmpa_zeros_by_sign :
    (fun t => (t.cmp, t.pc)) (stepped (writing 80 ⟨.minus, 0, 0, 0, 0, 0⟩ (placed 0 ⟨.plus, 0, 80, 0, 5, 56⟩ { State.reset with rA := ⟨.plus, 0, 0, 0, 0, 0⟩, cmp := .equal }))) =
    (.greater, 1) := by
  decide

/-- CM5: `CMPA 80`. -/
theorem test_cmpa_both_negative :
    (fun t => (t.cmp, t.pc)) (stepped (writing 80 ⟨.minus, 0, 0, 0, 0, 9⟩ (placed 0 ⟨.plus, 0, 80, 0, 5, 56⟩ { State.reset with rA := ⟨.minus, 0, 0, 0, 0, 5⟩, cmp := .equal }))) =
    (.less, 1) := by
  decide

/-- CM6: `CMPA 80(0:0)`. -/
theorem test_cmpa_sign_only :
    (fun t => (t.cmp, t.pc)) (stepped (writing 80 ⟨.plus, 0, 0, 0, 0, 9⟩ (placed 0 ⟨.plus, 0, 80, 0, 0, 56⟩ { State.reset with rA := ⟨.minus, 0, 0, 0, 0, 5⟩, cmp := .less }))) =
    (.equal, 1) := by
  decide

/-- CM7: `CMPX 80(4:4)`. -/
theorem test_cmpx_one_byte :
    (fun t => (t.cmp, t.pc)) (stepped (writing 80 ⟨.plus, 0, 0, 0, 1, 3⟩ (placed 0 ⟨.plus, 0, 80, 0, 36, 63⟩ { State.reset with rX := ⟨.plus, 0, 0, 0, 1, 2⟩, cmp := .equal }))) =
    (.equal, 1) := by
  decide

/-- CM8: `CMP3 80`. -/
theorem test_cmp3_full_word :
    (fun t => (t.cmp, t.pc)) (stepped (writing 80 ⟨.plus, 0, 0, 0, 255, 255⟩ (placed 0 ⟨.plus, 0, 80, 0, 5, 59⟩ { State.reset with rI3 := ⟨.plus, 0, 0, 1, 0, 0⟩, cmp := .equal }))) =
    (.greater, 1) := by
  decide

/-- JP1: `JMP 9`. -/
theorem test_jmp_lands_after :
    (fun t => (t.rJ, t.pc)) (stepped (placed 0 ⟨.plus, 0, 9, 0, 0, 39⟩ State.reset)) =
    (⟨.plus, 0, 0, 0, 0, 1⟩, 10) := by
  decide

/-- JP2: `JSJ 20`. -/
theorem test_jsj_keeps_rJ :
    (fun t => (t.pc)) (stepped (placed 5 ⟨.plus, 0, 20, 0, 1, 39⟩ { State.reset with rJ := ⟨.plus, 0, 0, 0, 0, 1⟩ })) =
    (21) := by
  decide

/-- JP3: `JMP 4000`. -/
theorem test_jmp_to_sentinel_halts :
    (fun t => (t.rJ, t.pc, t.status)) (stepped (placed 7 ⟨.plus, 15, 160, 0, 0, 39⟩ State.reset)) =
    (⟨.plus, 0, 0, 0, 0, 8⟩, 4000, .halted) := by
  decide

/-- JP4: `JMP 3999`. -/
theorem test_jmp_last_cell_runs_on :
    (fun t => (t.rJ, t.pc)) (stepped (placed 7 ⟨.plus, 15, 159, 0, 0, 39⟩ State.reset)) =
    (⟨.plus, 0, 0, 0, 0, 8⟩, 4000) := by
  decide

/-- JP6: `JOV 7`. -/
theorem test_jov_taken :
    (fun t => (t.rJ, t.ov, t.pc)) (stepped (placed 2 ⟨.plus, 0, 7, 0, 2, 39⟩ { State.reset with ov := true })) =
    (⟨.plus, 0, 0, 0, 0, 3⟩, false, 8) := by
  decide

/-- JP8: `JNOV 7`. -/
theorem test_jnov_not_taken_clears :
    (fun t => (t.ov, t.pc)) (stepped (placed 2 ⟨.plus, 0, 7, 0, 3, 39⟩ { State.reset with ov := true })) =
    (false, 3) := by
  decide

/-- JP10: `JL 6`. -/
theorem test_jl_taken :
    (fun t => (t.rJ, t.cmp, t.pc)) (stepped (placed 4 ⟨.plus, 0, 6, 0, 4, 39⟩ { State.reset with cmp := .less })) =
    (⟨.plus, 0, 0, 0, 0, 5⟩, .less, 7) := by
  decide

/-- JP14: `JE 6`. -/
theorem test_je_taken :
    (fun t => (t.rJ, t.cmp, t.pc)) (stepped (placed 4 ⟨.plus, 0, 6, 0, 5, 39⟩ { State.reset with cmp := .equal })) =
    (⟨.plus, 0, 0, 0, 0, 5⟩, .equal, 7) := by
  decide

/-- JP18: `JG 6`. -/
theorem test_jg_taken :
    (fun t => (t.rJ, t.cmp, t.pc)) (stepped (placed 4 ⟨.plus, 0, 6, 0, 6, 39⟩ { State.reset with cmp := .greater })) =
    (⟨.plus, 0, 0, 0, 0, 5⟩, .greater, 7) := by
  decide

/-- JP19: `JGE 6`. -/
theorem test_jge_not_taken :
    (fun t => (t.cmp, t.pc)) (stepped (placed 4 ⟨.plus, 0, 6, 0, 7, 39⟩ { State.reset with cmp := .less })) =
    (.less, 5) := by
  decide

/-- JP23: `JNE 6`. -/
theorem test_jne_not_taken :
    (fun t => (t.cmp, t.pc)) (stepped (placed 4 ⟨.plus, 0, 6, 0, 8, 39⟩ { State.reset with cmp := .equal })) =
    (.equal, 5) := by
  decide

/-- JP25: `JLE 6`. -/
theorem test_jle_taken :
    (fun t => (t.rJ, t.cmp, t.pc)) (stepped (placed 4 ⟨.plus, 0, 6, 0, 9, 39⟩ { State.reset with cmp := .less })) =
    (⟨.plus, 0, 0, 0, 0, 5⟩, .less, 7) := by
  decide

/-- JP28: `JAN 8`. -/
theorem test_jan_minus_zero :
    (fun t => (t.rJ, t.pc)) (stepped (placed 3 ⟨.plus, 0, 8, 0, 0, 40⟩ { State.reset with rA := ⟨.minus, 0, 0, 0, 0, 0⟩ })) =
    (⟨.plus, 0, 0, 0, 0, 4⟩, 9) := by
  decide

/-- JP29: `JAZ 8`. -/
theorem test_jaz_minus_zero :
    (fun t => (t.pc)) (stepped (placed 3 ⟨.plus, 0, 8, 0, 1, 40⟩ { State.reset with rA := ⟨.minus, 0, 0, 0, 0, 0⟩ })) =
    (4) := by
  decide

/-- JP31: `JAP 8`. -/
theorem test_jap_taken :
    (fun t => (t.rJ, t.pc)) (stepped (placed 3 ⟨.plus, 0, 8, 0, 2, 40⟩ { State.reset with rA := ⟨.plus, 0, 0, 0, 0, 1⟩ })) =
    (⟨.plus, 0, 0, 0, 0, 4⟩, 9) := by
  decide

/-- JP32: `JANN 8`. -/
theorem test_jann_minus_zero :
    (fun t => (t.pc)) (stepped (placed 3 ⟨.plus, 0, 8, 0, 3, 40⟩ { State.reset with rA := ⟨.minus, 0, 0, 0, 0, 0⟩ })) =
    (4) := by
  decide

/-- JP33: `JANZ 8`. -/
theorem test_janz_minus_zero :
    (fun t => (t.rJ, t.pc)) (stepped (placed 3 ⟨.plus, 0, 8, 0, 4, 40⟩ { State.reset with rA := ⟨.minus, 0, 0, 0, 0, 0⟩ })) =
    (⟨.plus, 0, 0, 0, 0, 4⟩, 9) := by
  decide

/-- JP34: `JANP 8`. -/
theorem test_janp_not_taken :
    (fun t => (t.pc)) (stepped (placed 3 ⟨.plus, 0, 8, 0, 5, 40⟩ { State.reset with rA := ⟨.plus, 0, 0, 0, 0, 2⟩ })) =
    (4) := by
  decide

/-- JP35: `JXN 8`. -/
theorem test_jxn_taken :
    (fun t => (t.rJ, t.pc)) (stepped (placed 3 ⟨.plus, 0, 8, 0, 0, 47⟩ { State.reset with rX := ⟨.minus, 0, 0, 0, 0, 6⟩ })) =
    (⟨.plus, 0, 0, 0, 0, 4⟩, 9) := by
  decide

/-- JP37: `JXP 8`. -/
theorem test_jxp_zero :
    (fun t => (t.pc)) (stepped (placed 3 ⟨.plus, 0, 8, 0, 2, 47⟩ { State.reset with rX := ⟨.plus, 0, 0, 0, 0, 0⟩ })) =
    (4) := by
  decide

/-- JP39: `JXNZ 8`. -/
theorem test_jxnz_first_byte :
    (fun t => (t.rJ, t.pc)) (stepped (placed 3 ⟨.plus, 0, 8, 0, 4, 47⟩ { State.reset with rX := ⟨.plus, 1, 0, 0, 0, 0⟩ })) =
    (⟨.plus, 0, 0, 0, 0, 4⟩, 9) := by
  decide

/-- JP41: `J1N 8`. -/
theorem test_j1n_taken :
    (fun t => (t.rJ, t.pc)) (stepped (placed 3 ⟨.plus, 0, 8, 0, 0, 41⟩ { State.reset with rI1 := ⟨.minus, 0, 0, 0, 0, 1⟩ })) =
    (⟨.plus, 0, 0, 0, 0, 4⟩, 9) := by
  decide

/-- JP42: `J2Z 8`. -/
theorem test_j2z_byte_two_counts :
    (fun t => (t.pc)) (stepped (placed 3 ⟨.plus, 0, 8, 0, 1, 42⟩ { State.reset with rI2 := ⟨.plus, 0, 0, 1, 0, 0⟩ })) =
    (4) := by
  decide

/-- JP44: `J4NN 8`. -/
theorem test_j4nn_minus_zero :
    (fun t => (t.pc)) (stepped (placed 3 ⟨.plus, 0, 8, 0, 3, 44⟩ { State.reset with rI4 := ⟨.minus, 0, 0, 0, 0, 0⟩ })) =
    (4) := by
  decide

/-- JP46: `J6NP 8`. -/
theorem test_j6np_not_taken :
    (fun t => (t.pc)) (stepped (placed 3 ⟨.plus, 0, 8, 0, 5, 46⟩ { State.reset with rI6 := ⟨.plus, 0, 0, 0, 0, 9⟩ })) =
    (4) := by
  decide

/-- JP47: `JAN 8`. -/
theorem test_register_jump_keeps_cmp :
    (fun t => (t.rJ, t.cmp, t.pc)) (stepped (placed 3 ⟨.plus, 0, 8, 0, 0, 40⟩ { State.reset with rA := ⟨.minus, 0, 0, 0, 0, 1⟩, cmp := .greater })) =
    (⟨.plus, 0, 0, 0, 0, 4⟩, .greater, 9) := by
  decide

/-- SH1: `SLA 2`. -/
theorem test_sla_keeps_sign :
    (fun t => (t.rA, t.pc)) (stepped (placed 0 ⟨.plus, 0, 2, 0, 0, 6⟩ { State.reset with rA := ⟨.minus, 1, 2, 3, 4, 5⟩ })) =
    (⟨.minus, 3, 4, 5, 0, 0⟩, 1) := by
  decide

/-- SH4: `SRA 1`. -/
theorem test_sra_one :
    (fun t => (t.rA, t.pc)) (stepped (placed 0 ⟨.plus, 0, 1, 0, 1, 6⟩ { State.reset with rA := ⟨.plus, 1, 2, 3, 4, 5⟩ })) =
    (⟨.plus, 0, 1, 2, 3, 4⟩, 1) := by
  decide

/-- SH6: `SLAX 3`. -/
theorem test_slax_three :
    (fun t => (t.rA, t.rX, t.pc)) (stepped (placed 0 ⟨.plus, 0, 3, 0, 2, 6⟩ { State.reset with rA := ⟨.plus, 1, 2, 3, 4, 5⟩, rX := ⟨.minus, 6, 7, 8, 9, 10⟩ })) =
    (⟨.plus, 4, 5, 6, 7, 8⟩, ⟨.minus, 9, 10, 0, 0, 0⟩, 1) := by
  decide

/-- SH8: `SRAX 5`. -/
theorem test_srax_five :
    (fun t => (t.rA, t.rX, t.pc)) (stepped (placed 0 ⟨.plus, 0, 5, 0, 3, 6⟩ { State.reset with rA := ⟨.plus, 1, 2, 3, 4, 5⟩, rX := ⟨.minus, 6, 7, 8, 9, 10⟩ })) =
    (⟨.plus, 0, 0, 0, 0, 0⟩, ⟨.minus, 1, 2, 3, 4, 5⟩, 1) := by
  decide

/-- SH10: `SLC 7`. -/
theorem test_slc_count_mod_five :
    (fun t => (t.rA, t.pc)) (stepped (placed 0 ⟨.plus, 0, 7, 0, 4, 6⟩ { State.reset with rA := ⟨.minus, 1, 2, 3, 4, 5⟩ })) =
    (⟨.minus, 3, 4, 5, 1, 2⟩, 1) := by
  decide

/-- SH12: `SRC 1`. -/
theorem test_src_one :
    (fun t => (t.rA, t.pc)) (stepped (placed 0 ⟨.plus, 0, 1, 0, 5, 6⟩ { State.reset with rA := ⟨.plus, 1, 2, 3, 4, 5⟩ })) =
    (⟨.plus, 5, 1, 2, 3, 4⟩, 1) := by
  decide

/-- SH14: `SLA 2, word sign -`. -/
theorem test_shift_sign_ignored :
    (fun t => (t.rA, t.pc)) (stepped (placed 0 ⟨.minus, 0, 2, 0, 0, 6⟩ { State.reset with rA := ⟨.plus, 1, 2, 3, 4, 5⟩ })) =
    (⟨.plus, 3, 4, 5, 0, 0⟩, 1) := by
  decide

/-- CT1: `HLT`. -/
theorem test_hlt_halts :
    (fun t => (t.pc, t.status)) (stepped (placed 5 ⟨.plus, 0, 0, 0, 2, 5⟩ State.reset)) =
    (4000, .halted) := by
  decide

/-- CT3: `HLT 0,7`. -/
theorem test_hlt_index_fault_first :
    (stepped (placed 5 ⟨.plus, 0, 0, 7, 2, 5⟩ State.reset)).status =
    .faulted .invalidIndex ⟨5, some ⟨.plus, 0, 0, 7, 2, 5⟩, 7⟩ := by
  decide

/-- CT5: `NOP`. -/
theorem test_nop :
    (fun t => (t.pc)) (stepped (placed 7 ⟨.plus, 0, 0, 0, 0, 0⟩ State.reset)) =
    (8) := by
  decide

/-- CT7: `(opcode 200)`. -/
theorem test_opcode_200 :
    (fun t => (t.pc)) (stepped (placed 7 ⟨.plus, 255, 255, 6, 255, 200⟩ { State.reset with rI6 := ⟨.plus, 255, 255, 255, 255, 255⟩ })) =
    (8) := by
  decide

/-- CT9: `NOP`. -/
theorem test_falling_off_memory :
    (fun t => (t.pc)) (stepped (placed 3999 ⟨.plus, 0, 0, 0, 0, 0⟩ State.reset)) =
    (4000) := by
  decide

/-- AR6, under either value of the open parameter: a zero sum takes `ZERO_RESULT_SIGN`. -/
theorem test_add_zero_sum :
    (stepped (writing 100 ⟨.minus, 0, 0, 0, 0, 5⟩
      (placed 0 ⟨.plus, 0, 100, 0, 5, 1⟩ { State.reset with rA := ⟨.plus, 0, 0, 0, 0, 5⟩ }))).rA =
    ⟨Config.zeroResultSign, 0, 0, 0, 0, 0⟩ := by
  rfl

/-- AR19, under either value: without position 0 the product takes `DEFAULT_SIGN`. -/
theorem test_mul_unsigned_window :
    (fun t => (t.rA, t.rX)) (stepped (writing 300 ⟨.minus, 0, 0, 0, 7, 9⟩
      (placed 0 ⟨.plus, 1, 44, 0, 36, 3⟩ { State.reset with rA := ⟨.plus, 0, 0, 0, 0, 2⟩ }))) =
    (⟨Config.defaultSign, 0, 0, 0, 0, 0⟩, ⟨Config.defaultSign, 0, 0, 0, 0, 14⟩) := by
  rfl

/-- AR23, under either value: division by zero is no fault, and sets OV. -/
theorem test_div_by_zero :
    (fun t => (t.rA, t.rX, t.ov, t.pc)) (stepped (placed 0 ⟨.plus, 1, 144, 0, 5, 4⟩
      { State.reset with rA := ⟨.plus, 0, 0, 0, 0, 1⟩, rX := ⟨.plus, 0, 0, 0, 0, 5⟩ })) =
    (⟨Config.defaultSign, 0, 0, 0, 0, 0⟩, ⟨Config.defaultSign, 0, 0, 0, 0, 0⟩, true, 1) := by
  rfl

/-- AT6, under either value of `HAS_ENN`. -/
theorem test_enna_if_present :
    (stepped (placed 0 ⟨.plus, 0, 5, 0, 3, 48⟩
      { State.reset with rA := ⟨.plus, 1, 2, 3, 4, 5⟩ })).rA =
    if Config.hasEnn then ⟨.minus, 0, 0, 0, 0, 5⟩ else ⟨.plus, 1, 2, 3, 4, 5⟩ := by
  cases h : Config.hasEnn <;>
    simp [stepped, placed, step, State.fetchedWord, State.setPc, State.writeWord, State.reset,
      Memory.write, Memory.cell, Memory.read, Memory.unlisted, Word.zero, decode, indexOf, dispatch,
      dispatchTransfers, subInstr, exec, execEnna, State.enterNegative, State.advance, h]
  all_goals rfl

/-- CT10: a step at pc 4000 faults at the fetch, and no word is recorded. -/
theorem test_fetch_at_4000 :
    (stepped { State.reset with pc := 4000 }).status =
    .faulted .fetchOutOfRange ⟨4000, none, 4000⟩ := by
  decide

/-- R257: from HALTED no step is defined. -/
theorem test_no_step_from_halted :
    step { State.reset with status := .halted } = .fault .stepAfterHalt := by
  rfl

/-- The host's placing: HLT placed by `withFetchWord` is what the first step after reset runs. -/
theorem test_withFetchWord_runs :
    (fun t => (t.pc, t.status)) (stepped (State.reset.withFetchWord 48 0x0000000205)) =
    (4000, .halted) := by
  decide

/-- R256: the run that begins at an HLT ends HALTED at 4000 after one step, and not before it. -/
theorem test_run_halts :
    run 0 (placed 5 ⟨.plus, 0, 0, 0, 2, 5⟩ State.reset) = none ∧
    (run 2 (placed 5 ⟨.plus, 0, 0, 0, 2, 5⟩ State.reset)).map (fun t => (t.pc, t.status)) =
      some (4000, .halted) := by
  decide

/-- R256: the run that begins at a word with I = 7 ends FAULTED there. -/
theorem test_run_faults :
    (run 2 (placed 5 ⟨.plus, 0, 0, 7, 0, 1⟩ State.reset)).map (fun t => (t.pc, t.status)) =
      some (5, .faulted .invalidIndex ⟨5, some ⟨.plus, 0, 0, 7, 0, 1⟩, 7⟩) := by
  decide

/-! ### The field unit (spec/95_test_vectors.md, rows DP1 to DP12) -/

theorem test_field_value :
    fieldValue ⟨.minus, 1, 2, 3, 4, 5⟩ ⟨0, 5⟩ = -4328719365 ∧
    fieldValue ⟨.minus, 1, 2, 3, 4, 5⟩ ⟨1, 5⟩ = 4328719365 ∧
    fieldValue ⟨.minus, 1, 2, 3, 4, 5⟩ ⟨0, 2⟩ = -258 ∧
    fieldValue ⟨.minus, 1, 2, 3, 4, 5⟩ ⟨2, 3⟩ = 515 ∧
    fieldValue ⟨.minus, 1, 2, 3, 4, 5⟩ ⟨5, 5⟩ = 5 ∧
    fieldValue ⟨.minus, 1, 2, 3, 4, 5⟩ ⟨0, 0⟩ = 0 := by decide

theorem test_copies :
    storeOperation ⟨.plus, 1, 2, 3, 4, 5⟩ ⟨.minus, 9, 9, 9, 9, 9⟩ ⟨2, 3⟩ = ⟨.minus, 9, 4, 5, 9, 9⟩ ∧
    copyWordFields ⟨.minus, 1, 2, 3, 4, 5⟩ ⟨.plus, 9, 9, 9, 9, 9⟩ ⟨2, 3⟩ = ⟨.plus, 9, 2, 3, 9, 9⟩ := by
  decide

theorem test_shifter :
    doubleShiftRight ⟨.plus, 1, 2, 3, 4, 5⟩ ⟨.minus, 6, 7, 8, 9, 10⟩ 3 =
      (⟨.plus, 0, 0, 0, 1, 2⟩, ⟨.minus, 3, 4, 5, 6, 7⟩) ∧
    shiftLeft ⟨.minus, 1, 2, 3, 4, 5⟩ 7 true = ⟨.minus, 3, 4, 5, 1, 2⟩ := by decide

theorem test_memory_stays_canonical :
    Memory.write [(3, ⟨.plus, 0, 0, 0, 0, 1⟩)] 3 Word.zero = [] ∧
    Memory.wf [(3, Word.zero)] = false ∧
    Memory.wf [(4000, ⟨.plus, 0, 0, 0, 0, 1⟩)] = false ∧
    Memory.wf [(4, ⟨.plus, 0, 0, 0, 0, 1⟩), (3, ⟨.plus, 0, 0, 0, 0, 1⟩)] = false ∧
    State.reset.mem.wf = true := by decide
/-! ### Witnesses: for every statement with hypotheses, values that meet them, each clause at a boundary -/

/-- A word of opcode `c` and F `f` with index selector 6: the hypotheses of `FieldCoded` (F = 45, the field
(5:5)) and of `SubCoded`. -/
def codedWord (c f : Nat) : Word :=
  ⟨.minus, 255, 255, 6, BitVec.ofNat 8 f, BitVec.ofNat 8 c⟩

/-- The operands whose addresses are the last of memory, and one past it. -/
def last : Operand := ⟨.plus, 3999, none⟩
def past : Operand := ⟨.plus, 4000, none⟩

/-- A running state with a nonzero rA and rX and the word at 3999 nonzero. -/
def busy : State :=
  writing 3999 ⟨.plus, 0, 0, 0, 0, 3⟩
    { State.reset with rA := ⟨.plus, 0, 0, 0, 0, 2⟩, rX := ⟨.minus, 0, 0, 0, 0, 9⟩ }

theorem witness_FieldCoded :
    (codedWord 1 45).b2.toNat = selectorNumber (some .i6) ∧ (codedWord 1 45).b4.toNat = 1 ∧
    validField (codedWord 1 45).b3.toNat ∧ (codedWord 63 0).b4.toNat = 63 ∧
    validField (codedWord 63 0).b3.toNat := by
  unfold validField; decide

theorem witness_SubCoded :
    (codedWord 6 5).b2.toNat = selectorNumber (some .i6) ∧ (codedWord 6 5).b4.toNat = 6 ∧
    (codedWord 6 5).b3.toNat = 5 ∧ (codedWord 39 9).b3.toNat = 9 ∧
    (codedWord 55 3).b3.toNat = 3 := by decide

theorem witness_LaunchHoldsItsInputs :
    (List.replicate 4000 Word.zero).length = 4000 ∧
    3999 < (List.replicate 4000 Word.zero).length ∧ 3999 < 4000 := by
  rw [List.length_replicate]; decide

theorem witness_DecodeOfEncode :
    (Instr.add ⟨.minus, 65535, some .i6⟩ ⟨5, 5⟩).wellFormed = true ∧
    (Instr.cmpx ⟨.plus, 0, none⟩ ⟨0, 0⟩).wellFormed = true ∧
    (Instr.nopUnmapped ⟨.plus, 0, none⟩ 255 255).wellFormed = true := by decide

theorem witness_EncodeOfDecode :
    decode ⟨.minus, 255, 255, 6, 45, 1⟩ = .ok (.add ⟨.minus, 65535, some .i6⟩ ⟨5, 5⟩) := by decide

theorem witness_DecodeRefusesExactly :
    7 ≤ (Word.mk .plus 0 0 7 0 0).b2.toNat ∧
    decode ⟨.plus, 0, 0, 255, 6, 1⟩ = .error (.invalidIndex 255) ∧
    decode ⟨.plus, 0, 0, 6, 6, 1⟩ = .error (.fieldSpecOutOfRange 6) ∧
    fieldOpcode (Word.mk .plus 0 0 6 8 33).b4.toNat ∧
    ¬ validField (Word.mk .plus 0 0 6 8 33).b3.toNat ∧
    decode ⟨.plus, 0, 0, 6, 45, 33⟩ = .ok (.stz ⟨.plus, 0, some .i6⟩ ⟨5, 5⟩) ∧
    ¬ fieldOpcode (Word.mk .plus 0 0 0 6 34).b4.toNat := by
  unfold validField fieldOpcode; decide

theorem witness_UnmappedPairsAreNoOperations :
    unmappedPair 7 0 = true ∧ unmappedPair 5 3 = true ∧ unmappedPair 255 255 = true ∧
    7 ≤ (Word.mk .plus 0 0 7 0 0).b2.toNat ∧ (Word.mk .plus 0 0 6 0 0).b2.toNat ≤ 6 ∧
    (placed 3999 ⟨.plus, 0, 0, 6, 0, 0⟩ busy).status = .running ∧
    (placed 3999 ⟨.plus, 0, 0, 6, 0, 0⟩ busy).pc ≤ 3999 ∧
    (placed 3999 ⟨.plus, 0, 0, 6, 0, 0⟩ busy).mem.read 3999 = ⟨.plus, 0, 0, 6, 0, 0⟩ := by decide

theorem witness_ResolvedAddressIsUnsignedSum :
    decode ⟨.minus, 255, 255, 6, 2, 49⟩ = .ok (.ent1 ⟨.minus, 65535, some .i6⟩) ∧
    decode ⟨.plus, 0, 0, 0, 0, 0⟩ = .ok (.nop ⟨.plus, 0, none⟩ 0) ∧
    ({ State.reset with rI6 := ⟨.minus, 9, 9, 9, 255, 255⟩ }).effAddr ⟨.minus, 65535, some .i6⟩ =
      131070 := by decide

theorem witness_FieldSpecificationForms :
    (splitField 0).valid = true ∧ (splitField 45).valid = true ∧ (splitField 8).valid = false := by
  decide

theorem witness_MakeWordInvertsMagnitude :
    256 ^ 5 - 1 < 256 ^ 5 ∧ (mkword .minus (256 ^ 5 - 1)) = ⟨.minus, 255, 255, 255, 255, 255⟩ := by
  decide

/-- The valid windows at the boundaries: sign only, the whole word, position 1 alone and position 5 alone. -/
theorem witness_windows :
    FieldSpec.valid ⟨0, 0⟩ = true ∧ FieldSpec.valid ⟨0, 5⟩ = true ∧
    FieldSpec.valid ⟨1, 1⟩ = true ∧ FieldSpec.valid ⟨5, 5⟩ = true := by decide

theorem witness_FieldValueIsWindowSum :
    FieldSpec.valid ⟨0, 0⟩ = true ∧ FieldSpec.valid ⟨5, 5⟩ = true ∧
    fieldValue ⟨.minus, 0, 0, 0, 0, 7⟩ ⟨0, 5⟩ = -7 ∧ fieldValue ⟨.minus, 0, 0, 0, 0, 7⟩ ⟨5, 5⟩ = 7 := by
  decide

/-- The window (2:3): bytes 1 and 2 lie inside it, 0 and 3 outside. -/
theorem witness_CopyAndStoreMoveWindows :
    FieldSpec.valid ⟨0, 0⟩ = true ∧ FieldSpec.valid ⟨2, 3⟩ = true ∧
    lo ⟨2, 3⟩ = 1 ∧ hi ⟨2, 3⟩ = 2 ∧ width ⟨2, 3⟩ = 2 ∧ 1 < width ⟨2, 3⟩ ∧
    (0 < lo ⟨2, 3⟩ ∨ hi ⟨2, 3⟩ < 0) ∧ (3 < lo ⟨2, 3⟩ ∨ hi ⟨2, 3⟩ < 3) := by decide

theorem witness_IndexLoadFieldCheck :
    FieldSpec.valid ⟨3, 3⟩ = true ∧ 8 * 3 + 3 ∈ [9, 10, 11, 18, 19, 27] ∧
    FieldSpec.valid ⟨3, 4⟩ = true ∧ 8 * 3 + 4 ∉ [9, 10, 11, 18, 19, 27] ∧
    FieldSpec.valid ⟨0, 0⟩ = true ∧ 8 * 0 + 0 ∉ [9, 10, 11, 18, 19, 27] := by decide

/-- Sums 1, -1 and 0 under the whole word, and a window without position 0. -/
theorem witness_AdderIsExactModuloWindow :
    FieldSpec.valid ⟨0, 5⟩ = true ∧ FieldSpec.valid ⟨1, 5⟩ = true ∧
    fieldValue ⟨.plus, 0, 0, 0, 0, 3⟩ ⟨0, 5⟩ + fieldValue ⟨.minus, 0, 0, 0, 0, 2⟩ ⟨0, 5⟩ = 1 ∧
    fieldValue ⟨.plus, 0, 0, 0, 0, 2⟩ ⟨0, 5⟩ + fieldValue ⟨.minus, 0, 0, 0, 0, 3⟩ ⟨0, 5⟩ = -1 ∧
    fieldValue ⟨.plus, 0, 0, 0, 0, 2⟩ ⟨0, 5⟩ + fieldValue ⟨.minus, 0, 0, 0, 0, 2⟩ ⟨0, 5⟩ = 0 := by
  decide

theorem witness_UnsignedWindowSubtractionAdds :
    FieldSpec.valid ⟨1, 1⟩ = true ∧ FieldSpec.valid ⟨5, 5⟩ = true := by decide

/-- Products 1, -1 and 0 under the whole word. -/
theorem witness_MultiplierIsExact :
    FieldSpec.valid ⟨0, 5⟩ = true ∧ FieldSpec.valid ⟨1, 5⟩ = true ∧
    val ⟨.minus, 0, 0, 0, 0, 1⟩ * fieldValue ⟨.minus, 0, 0, 0, 0, 1⟩ ⟨0, 5⟩ = 1 ∧
    val ⟨.minus, 0, 0, 0, 0, 1⟩ * fieldValue ⟨.plus, 0, 0, 0, 0, 1⟩ ⟨0, 5⟩ = -1 ∧
    val ⟨.minus, 0, 0, 0, 0, 0⟩ * fieldValue ⟨.plus, 0, 0, 0, 0, 1⟩ ⟨0, 5⟩ = 0 := by decide

/-- A zero divisor, a divisor equal to the upper half, and one above it. -/
theorem witness_DividerIsExact :
    (fieldValue ⟨.minus, 0, 0, 0, 0, 0⟩ ⟨0, 5⟩).natAbs = 0 ∧
    (fieldValue ⟨.minus, 0, 0, 0, 0, 3⟩ ⟨0, 5⟩).natAbs = 3 ∧
    3 ≤ mag ⟨.plus, 0, 0, 0, 0, 3⟩ ∧ mag ⟨.plus, 0, 0, 0, 0, 2⟩ < 3 := by decide

theorem witness_ComparatorOrdersWindows :
    (Word.mk .plus 0 0 0 0 0).sign ≠ (Word.mk .minus 0 0 0 0 0).sign ∧
    FieldSpec.valid ⟨0, 1⟩ = true ∧ FieldSpec.valid ⟨1, 5⟩ = true := by decide

theorem witness_AddAndSubtract :
    FieldSpec.valid ⟨0, 0⟩ = true ∧ FieldSpec.valid ⟨0, 5⟩ = true ∧
    3999 < busy.effAddr past ∧ busy.effAddr last ≤ 3999 ∧
    exec (.add last ⟨0, 5⟩) busy =
      .next { busy with rA := ⟨.plus, 0, 0, 0, 0, 5⟩, ov := false } := by
  refine ⟨by decide, by decide, by decide, by decide, rfl⟩

theorem witness_MultiplyNegatesItsOperand :
    FieldSpec.valid ⟨0, 0⟩ = true ∧ FieldSpec.valid ⟨0, 5⟩ = true ∧
    3999 < busy.effAddr past ∧ busy.effAddr last ≤ 3999 ∧
    0 < val busy.rA * fieldValue (busy.mem.read (busy.effAddr last)) ⟨0, 5⟩ := by decide

/-- The divisor 3 is above the magnitude 2 of rA; with rA = 3 it is not, and at 0 memory it is zero. -/
theorem witness_DivideGivesQuotientAndRemainder :
    FieldSpec.valid ⟨0, 0⟩ = true ∧ FieldSpec.valid ⟨0, 5⟩ = true ∧
    3999 < busy.effAddr past ∧ busy.effAddr last ≤ 3999 ∧
    (fieldValue (busy.mem.read 0) ⟨0, 5⟩).natAbs = 0 ∧
    (fieldValue (busy.mem.read 3999) ⟨0, 5⟩).natAbs = 3 ∧ mag busy.rA < 3 ∧
    3 ≤ mag ({ busy with rA := ⟨.plus, 0, 0, 0, 0, 3⟩ }).rA := by decide

theorem witness_LoadsOfAccumulatorAndExtension :
    FieldSpec.valid ⟨0, 0⟩ = true ∧ FieldSpec.valid ⟨5, 5⟩ = true ∧
    3999 < busy.effAddr past ∧ busy.effAddr last ≤ 3999 := by decide

theorem witness_LoadsOfIndexRegisters :
    FieldSpec.valid ⟨1, 1⟩ = true ∧ FieldSpec.valid ⟨4, 4⟩ = true ∧
    3999 < busy.effAddr past ∧ busy.effAddr last ≤ 3999 ∧
    8 * 1 + 1 ∈ [9, 10, 11, 18, 19, 27] ∧ 8 * 4 + 4 ∉ [9, 10, 11, 18, 19, 27] := by decide

theorem witness_StoresWriteTheWordAtM :
    FieldSpec.valid ⟨0, 0⟩ = true ∧ FieldSpec.valid ⟨5, 5⟩ = true ∧
    3999 < busy.effAddr past ∧ busy.effAddr last ≤ 3999 ∧ busy.mem.wf = true := by decide

/-- `HAS_ENN` has one of its two values, and either case of the statement is about that value. -/
theorem witness_EnterNegativeIfPresent : Config.hasEnn = true ∨ Config.hasEnn = false := by
  cases Config.hasEnn <;> simp

theorem witness_ComparesWriteTheFlag :
    FieldSpec.valid ⟨0, 0⟩ = true ∧ FieldSpec.valid ⟨1, 1⟩ = true ∧
    3999 < busy.effAddr past ∧ busy.effAddr last ≤ 3999 := by decide

theorem witness_ShiftsTakeTheirCountFromM :
    5 ≤ busy.effAddr ⟨.plus, 5, none⟩ ∧ 10 ≤ busy.effAddr ⟨.minus, 10, none⟩ := by decide

theorem witness_HaltStopsAtTheSentinel :
    (placed 3999 ⟨.plus, 0, 0, 0, 2, 5⟩ busy).status = .running ∧
    (placed 3999 ⟨.plus, 0, 0, 0, 2, 5⟩ busy).pc ≤ 3999 ∧
    decode ((placed 3999 ⟨.plus, 0, 0, 0, 2, 5⟩ busy).mem.read 3999) =
      .ok (.hlt ⟨.plus, 0, none⟩) := by decide

theorem witness_ArithmeticFrame :
    (∃ t, exec (.add last ⟨0, 5⟩) busy = .next t ∧ t.status = .running) ∧
    (∃ t, exec (.sub last ⟨0, 5⟩) busy = .next t ∧ t.status = .running) ∧
    (∃ t, exec (.mul last ⟨0, 5⟩) busy = .next t ∧ t.status = .running) ∧
    (∃ t, exec (.div last ⟨0, 5⟩) busy = .next t ∧ t.status = .running) :=
  ⟨⟨_, rfl, rfl⟩, ⟨_, rfl, rfl⟩, ⟨_, rfl, rfl⟩, ⟨_, rfl, rfl⟩⟩

theorem witness_LoadFrame :
    (∃ t, exec (.ldan last ⟨0, 5⟩) busy = .next t ∧ t.status = .running) ∧
    (∃ t, exec (.ldxn last ⟨0, 5⟩) busy = .next t ∧ t.status = .running) ∧
    (∃ t, exec (.ld6n last ⟨5, 5⟩) busy = .next t ∧ t.status = .running) :=
  ⟨⟨_, rfl, rfl⟩, ⟨_, rfl, rfl⟩, ⟨_, rfl, rfl⟩⟩

theorem witness_StoreFrame :
    busy.mem.wf = true ∧
    ∃ t, exec (.stx last ⟨0, 5⟩) busy = .next t ∧ t.mem.read 3999 = busy.rX :=
  ⟨by decide, _, rfl, by decide⟩

theorem witness_CompareFrame :
    ∃ t, exec (.cmpa last ⟨0, 5⟩) busy = .next t ∧ t.cmp = .less :=
  ⟨_, rfl, by decide⟩

theorem witness_AddressTransferFrame :
    (∃ t, exec (.inca last) busy = .next t ∧ t.rA = ⟨.plus, 0, 0, 0, 15, 161⟩) ∧
    (∃ t, exec (.ennx last) busy = .next t) ∧
    (∃ t, exec (.ent6 last) busy = .next t ∧ t.rI6 = ⟨.plus, 0, 0, 0, 15, 159⟩) :=
  ⟨⟨_, rfl, by decide⟩, ⟨_, rfl⟩, ⟨_, rfl, by decide⟩⟩

theorem witness_JumpFrame :
    (∃ t, exec (.jmp past) busy = .next t ∧ t.pc = 4000) ∧
    (∃ t, exec (.jsj past) busy = .next t ∧ t.pc = 4000) ∧
    (∃ t, exec (.j1n past) busy = .next t ∧ t.pc = 0) :=
  ⟨⟨_, rfl, by decide⟩, ⟨_, rfl, by decide⟩, ⟨_, rfl, by decide⟩⟩

theorem witness_ShiftFrame :
    (∃ t, exec (.sla ⟨.plus, 1, none⟩) busy = .next t ∧ t.rA = ⟨.plus, 0, 0, 0, 2, 0⟩) ∧
    (∃ t, exec (.srax ⟨.plus, 1, none⟩) busy = .next t ∧ t.rX = ⟨.minus, 2, 0, 0, 0, 0⟩) :=
  ⟨⟨_, rfl, by decide⟩, ⟨_, rfl, by decide⟩⟩

/-- The clauses: a pc of 4000, the two decode faults, and at 3999 an instruction that leaves the pc at 4000,
one that does not, and one that faults. -/
theorem witness_StepRunsTheDecodedInstruction :
    busy.status = .running ∧ 3999 < (busy.setPc 4000).pc ∧
    decode ((placed 3999 ⟨.plus, 0, 0, 7, 0, 0⟩ busy).mem.read 3999) = .error (.invalidIndex 7) ∧
    decode ((placed 3999 ⟨.plus, 0, 0, 0, 6, 1⟩ busy).mem.read 3999) =
      .error (.fieldSpecOutOfRange 6) ∧
    decode ((placed 3999 ⟨.plus, 15, 160, 0, 0, 39⟩ busy).mem.read 3999) = .ok (.jmp past) ∧
    (∃ u, exec (.jmp past) busy = .next u ∧ u.status = .running ∧ u.pc = 4000) ∧
    (∃ u, exec (.jmp last) busy = .next u ∧ u.status = .running ∧ u.pc ≠ 4000) ∧
    (∃ u, exec (.lda past ⟨0, 5⟩) busy = .next u ∧ u.status ≠ .running) :=
  ⟨rfl, by decide, by decide, by decide, by decide, ⟨_, rfl, rfl, by decide⟩, ⟨_, rfl, rfl, by decide⟩,
    ⟨_, rfl, by decide⟩⟩

theorem witness_TerminalStatusesHaveNoStep :
    ({ busy with status := .halted }).status = .halted ∧
    ({ busy with status := .faulted .invalidIndex ⟨0, none, 7⟩ }).status =
      .faulted .invalidIndex ⟨0, none, 7⟩ :=
  ⟨rfl, rfl⟩

theorem witness_FaultsArePrecise :
    (∃ t c r, step (placed 3999 ⟨.plus, 0, 0, 7, 0, 0⟩ busy) = .next t ∧ t.status = .faulted c r) ∧
    (∃ t c r, step (busy.setPc 4000) = .next t ∧ t.status = .faulted c r) :=
  ⟨⟨_, _, _, rfl, rfl⟩, ⟨_, _, _, rfl, rfl⟩⟩

/-- A state for each cause of FaultTaxonomyIsExact, and one with none. -/
theorem witness_FaultTaxonomyIsExact :
    FaultCause (busy.setPc 4000) .fetchOutOfRange 4000 ∧
    FaultCause (placed 0 ⟨.plus, 0, 0, 7, 0, 0⟩ busy) .invalidIndex 7 ∧
    FaultCause (placed 0 ⟨.plus, 0, 0, 6, 6, 1⟩ busy) .fieldSpecOutOfRange 6 ∧
    FaultCause (placed 0 ⟨.plus, 15, 160, 0, 5, 8⟩ busy) .addressOutOfRange 4000 ∧
    FaultCause (placed 0 ⟨.plus, 15, 159, 0, 27, 9⟩ busy) .invalidFieldSpec 27 ∧
    FaultCause (placed 0 ⟨.plus, 15, 159, 0, 0, 4⟩ busy) .arithmeticDomainFault 0 ∧
    FaultCause (placed 0 ⟨.plus, 15, 159, 0, 5, 4⟩
      { busy with rA := ⟨.plus, 0, 0, 0, 0, 3⟩, rX := Word.zero }) .quotientOverflow (256 ^ 5) := by
  refine ⟨?_, ?_, ?_, ?_, ?_, ?_, ?_⟩ <;> simp only [FaultCause, fieldOpcode, validField] <;> decide

theorem witness_no_FaultCause : ∀ c n, ¬ FaultCause State.reset c n := by
  intro c n h
  have hn : ¬ fieldOpcode 0 := by unfold fieldOpcode; decide
  cases c
  · exact absurd h.2.1 (by decide)
  · exact hn h.1.2.2.1
  · exact hn h.1.2.2.1
  · exact hn h.1.2.2.1
  · exact hn h.2.2.1
  · exact absurd h.1 (by decide)
  · exact hn h.1.2.2.1

/-- A jump to the sentinel and HLT both halt, here from address 3999. -/
theorem witness_HaltOnlyByHltOrJump :
    (∃ t, step (placed 3999 ⟨.plus, 15, 160, 0, 0, 39⟩ busy) = .next t ∧ t.status = .halted) ∧
    (∃ t, step (placed 3999 ⟨.plus, 0, 0, 0, 2, 5⟩ busy) = .next t ∧ t.status = .halted) ∧
    (∃ t, step (placed 3999 ⟨.plus, 0, 0, 0, 0, 0⟩ busy) = .next t ∧ t.status = .running ∧
      t.pc = 4000) :=
  ⟨⟨_, rfl, rfl⟩, ⟨_, rfl, rfl⟩, ⟨_, rfl, rfl, rfl⟩⟩

/-- What the three clauses of TakenJumpLandsAfterItsTarget share. -/
def jumpPlaced (s : State) : Prop :=
  s.status = .running ∧ s.pc ≤ 3999 ∧ (s.mem.read s.pc).b2.toNat ≤ 6 ∧
    jumpCode (s.mem.read s.pc).b4.toNat (s.mem.read s.pc).b3.toNat

/-- Taken to 3999: JSJ, and JAN on rA = -0. -/
theorem witness_TakenJumpLandsAfterItsTarget :
    (jumpPlaced (placed 3999 ⟨.plus, 15, 159, 0, 1, 39⟩ busy) ∧
      jumpTaken busy 39 1 ∧
      resolvedAddress busy ⟨.plus, 15, 159, 0, 1, 39⟩ = 3999) ∧
    (jumpPlaced (placed 0 ⟨.plus, 15, 159, 0, 0, 40⟩ { busy with rA := ⟨.minus, 0, 0, 0, 0, 0⟩ }) ∧
      jumpTaken { busy with rA := ⟨.minus, 0, 0, 0, 0, 0⟩ } 40 0) := by
  simp only [jumpPlaced, jumpCode, jumpTaken, flagJumpTaken, jumpCondition, testedRegister]; decide

/-- Taken to 4000: JMP, and J6NP on rI6 = +0. -/
theorem witness_TakenJumpLandsAfterItsTarget_halt :
    (jumpPlaced (placed 3999 ⟨.plus, 15, 160, 0, 0, 39⟩ busy) ∧
      jumpTaken busy 39 0 ∧
      resolvedAddress busy ⟨.plus, 15, 160, 0, 0, 39⟩ = 4000) ∧
    (jumpPlaced (placed 0 ⟨.plus, 15, 160, 0, 5, 46⟩ { busy with rI6 := Word.zero }) ∧
      jumpTaken { busy with rI6 := Word.zero } 46 5) := by
  simp only [jumpPlaced, jumpCode, jumpTaken, flagJumpTaken, jumpCondition, testedRegister]; decide

/-- Not taken at the last address: JLE on CMP = GREATER, and JXZ on rX = -0. -/
theorem witness_TakenJumpLandsAfterItsTarget_untaken :
    (jumpPlaced (placed 3999 ⟨.plus, 0, 6, 0, 9, 39⟩ { busy with cmp := .greater }) ∧
      ¬ jumpTaken { busy with cmp := .greater } 39 9) ∧
    (jumpPlaced (placed 3999 ⟨.plus, 0, 6, 0, 1, 47⟩ { busy with rX := ⟨.minus, 0, 0, 0, 0, 0⟩ }) ∧
      ¬ jumpTaken { busy with rX := ⟨.minus, 0, 0, 0, 0, 0⟩ } 47 1) := by
  simp only [jumpPlaced, jumpCode, jumpTaken, flagJumpTaken, jumpCondition, testedRegister]; decide

/-- JSJ 0 at address 1. -/
theorem witness_JumpBeforeItselfLeavesEverything :
    (placed 1 ⟨.plus, 0, 0, 0, 1, 39⟩ busy).status = .running ∧
    (placed 1 ⟨.plus, 0, 0, 0, 1, 39⟩ busy).pc ≤ 3999 ∧
    decode ((placed 1 ⟨.plus, 0, 0, 0, 1, 39⟩ busy).mem.read 1) = .ok (.jsj ⟨.plus, 0, none⟩) ∧
    (placed 1 ⟨.plus, 0, 0, 0, 1, 39⟩ busy).effAddr ⟨.plus, 0, none⟩ + 1 =
      (placed 1 ⟨.plus, 0, 0, 0, 1, 39⟩ busy).pc := by decide

theorem witness_InvariantHoldsAtLaunch :
    (List.replicate 4000 Word.zero).length = 4000 ∧ 131071 ≤ 131071 :=
  ⟨List.length_replicate, Nat.le_refl _⟩

/-- A state that meets the invariant and has a next state; and one that meets it in each terminal status. -/
theorem witness_EveryStepKeepsTheInvariant :
    busy.Inv ∧ (∃ t, step busy = .next t) ∧
    ({ busy with pc := 4000, status := .halted }).Inv ∧
    (stepped (busy.setPc 4000)).Inv :=
  ⟨⟨by decide, by decide, trivial⟩, ⟨_, rfl⟩, ⟨by decide, by decide, rfl⟩,
    ⟨by decide, by decide, rfl, rfl, by decide, rfl⟩⟩

theorem witness_PeripheralAreaIsInert : ∃ t, step busy = .next t := ⟨_, rfl⟩

theorem witness_RegistersHaveOnlyTheirWriters :
    (∃ t, exec (.jmp past) busy = .next t ∧ t.rJ ≠ busy.rJ) ∧
    (∃ t, exec (.lda last ⟨0, 5⟩) busy = .next t ∧ t.reg .A ≠ busy.reg .A) :=
  ⟨⟨_, rfl, by decide⟩, ⟨_, rfl, by decide⟩⟩

theorem witness_FlagsHaveOnlyTheirWriters :
    (∃ t, exec (.div ⟨.plus, 0, none⟩ ⟨0, 5⟩) busy = .next t ∧ t.ov ≠ busy.ov) ∧
    (∃ t, exec (.jov past) (busy.setOv true) = .next t ∧ t.ov ≠ (busy.setOv true).ov) ∧
    (∃ t, exec (.cmpa last ⟨0, 5⟩) busy = .next t ∧ t.cmp ≠ busy.cmp) :=
  ⟨⟨_, rfl, by decide⟩, ⟨_, rfl, by decide⟩, ⟨_, rfl, by decide⟩⟩

theorem witness_OnlyStoresWriteMemory :
    (placed 0 ⟨.plus, 15, 159, 0, 5, 24⟩ busy).mem.wf = true ∧
    ∃ t, step (placed 0 ⟨.plus, 15, 159, 0, 5, 24⟩ busy) = .next t ∧
      t.mem.read 3999 ≠ (placed 0 ⟨.plus, 15, 159, 0, 5, 24⟩ busy).mem.read 3999 :=
  ⟨by decide, _, rfl, by decide⟩

theorem witness_SignMattersOnlyToAddressTransfer :
    decode ⟨.minus, 0, 2, 0, 0, 6⟩ = .ok (.sla ⟨.minus, 2, none⟩) ∧
    decode ⟨.minus, 0, 2, 0, 4, 48⟩ = .ok (.nopUnmapped ⟨.minus, 2, none⟩ 48 4) ∧
    (∀ w ∈ [Word.mk .minus 0 2 0 0 6, Word.mk .minus 0 2 0 4 48, Word.mk .minus 0 2 0 0 47,
        Word.mk .minus 0 2 0 0 56],
      ¬ (48 ≤ w.b4.toNat ∧ w.b4.toNat ≤ 55 ∧ w.b3.toNat ≤ 3)) := by
  decide

/-- Ends of both kinds, and JSJ 0 at address 1, which leads to itself and so runs on. -/
theorem witness_RunEndsInOneOfThreeWays :
    (placed 5 ⟨.plus, 0, 0, 0, 2, 5⟩ busy).status = .running ∧
    run 1 (placed 5 ⟨.plus, 0, 0, 0, 2, 5⟩ busy) ≠ none ∧
    (runSteps 1 (placed 5 ⟨.plus, 0, 0, 0, 2, 5⟩ busy)).status ≠ .running ∧
    run 1 (placed 5 ⟨.plus, 0, 0, 7, 0, 1⟩ busy) ≠ none ∧
    run 2 (placed 1 ⟨.plus, 0, 0, 0, 1, 39⟩ busy) = none := by
  decide

theorem witness_RunKeepsInvariantAndPeripheralArea :
    State.reset.Inv ∧ (placed 5 ⟨.plus, 0, 0, 0, 2, 5⟩ State.reset).Inv ∧
    ∃ t, (placed 5 ⟨.plus, 0, 0, 0, 2, 5⟩ State.reset).RunsTo t :=
  ⟨⟨rfl, by decide, trivial⟩, ⟨rfl, by decide, trivial⟩, _, 1, rfl⟩

end Sys2Proof.Tests
end

section
/-! PROOFS. The invariant of 10_state.md over one step. The laws already say what a step can do
(`step_cases`) and what an instruction can do (`exec_outcome`); here stand the two facts that were
missing, what the decoder's refusals are and what `advance` does to the invariant. -/

namespace Sys2Proof.Machine

/-! ### What the decoder refuses (30_encoding.md R74, R79) -/

/-- `r` refuses, if at all, with the F byte `f`, which is no valid field specification. -/
def RefusesOnlyField (f : Byte) (r : Except DecodeFault Instr) : Prop :=
  ∀ e, r = .error e → (splitField f).valid = false ∧ e = .fieldSpecOutOfRange f.toNat

theorem refusesOnlyField_ok (f : Byte) (i : Instr) : RefusesOnlyField f (.ok i) :=
  fun _ h => by cases h

theorem refusesOnlyField_fieldInstr (f : Byte) (k : FieldSpec → Instr) :
    RefusesOnlyField f (fieldInstr f k) := by
  intro e h
  unfold fieldInstr at h
  split at h
  · cases h
  · rename_i hv
    cases h
    exact ⟨Bool.eq_false_iff.mpr hv, rfl⟩

theorem refusesOnlyField_subInstr (a : Operand) (f c : Byte) (subs : List Instr) :
    RefusesOnlyField f (subInstr a f c subs) := by
  unfold subInstr
  split <;> exact refusesOnlyField_ok f _

theorem refusesOnlyField_dispatchControl (a : Operand) (f c : Byte) :
    RefusesOnlyField f (dispatchControl a f c) := by
  unfold dispatchControl
  split
  case h_1 | h_8 => exact refusesOnlyField_ok f _
  case h_6 => split <;> exact refusesOnlyField_ok f _
  case h_7 => exact refusesOnlyField_subInstr a f c _
  all_goals exact refusesOnlyField_fieldInstr f _

theorem refusesOnlyField_dispatchLoads (a : Operand) (f c : Byte) :
    RefusesOnlyField f (dispatchLoads a f c) := by
  unfold dispatchLoads
  split
  case h_9 => exact refusesOnlyField_ok f _
  all_goals exact refusesOnlyField_fieldInstr f _

theorem refusesOnlyField_dispatchNegativeLoads (a : Operand) (f c : Byte) :
    RefusesOnlyField f (dispatchNegativeLoads a f c) := by
  unfold dispatchNegativeLoads
  split
  case h_9 => exact refusesOnlyField_ok f _
  all_goals exact refusesOnlyField_fieldInstr f _

theorem refusesOnlyField_dispatchStores (a : Operand) (f c : Byte) :
    RefusesOnlyField f (dispatchStores a f c) := by
  unfold dispatchStores
  split
  case h_11 => exact refusesOnlyField_ok f _
  all_goals exact refusesOnlyField_fieldInstr f _

theorem refusesOnlyField_dispatchJumps (a : Operand) (f c : Byte) :
    RefusesOnlyField f (dispatchJumps a f c) := by
  unfold dispatchJumps
  split
  case h_10 => exact refusesOnlyField_ok f _
  all_goals exact refusesOnlyField_subInstr a f c _

theorem refusesOnlyField_dispatchTransfers (a : Operand) (f c : Byte) :
    RefusesOnlyField f (dispatchTransfers a f c) := by
  unfold dispatchTransfers
  split
  case h_9 => exact refusesOnlyField_ok f _
  all_goals exact refusesOnlyField_subInstr a f c _

theorem refusesOnlyField_dispatchCompares (a : Operand) (f c : Byte) :
    RefusesOnlyField f (dispatchCompares a f c) := by
  unfold dispatchCompares
  split
  case h_9 => exact refusesOnlyField_ok f _
  all_goals exact refusesOnlyField_fieldInstr f _

theorem refusesOnlyField_dispatch (a : Operand) (f c : Byte) :
    RefusesOnlyField f (dispatch a f c) := by
  unfold dispatch
  split; exact refusesOnlyField_dispatchControl a f c
  split; exact refusesOnlyField_dispatchLoads a f c
  split; exact refusesOnlyField_dispatchNegativeLoads a f c
  split; exact refusesOnlyField_dispatchStores a f c
  split; exact refusesOnlyField_ok f _
  split; exact refusesOnlyField_dispatchJumps a f c
  split; exact refusesOnlyField_dispatchTransfers a f c
  split; exact refusesOnlyField_dispatchCompares a f c
  exact refusesOnlyField_ok f _

/-- Everything a decoder that refuses has found. -/
theorem decode_error {w : Word} {e : DecodeFault} (h : decode w = .error e) :
    (7 ≤ w.b2.toNat ∧ e = .invalidIndex w.b2.toNat) ∨
    (w.b2.toNat ≤ 6 ∧ (splitField w.b3).valid = false ∧
      e = .fieldSpecOutOfRange w.b3.toNat) := by
  unfold decode at h
  rcases Nat.lt_or_ge w.b2.toNat 7 with h6 | h7
  · obtain ⟨x, hx⟩ := indexOf_ok (Nat.le_of_lt_succ h6)
    rw [hx] at h
    exact .inr ⟨Nat.le_of_lt_succ h6, refusesOnlyField_dispatch _ _ _ e h⟩
  · rw [indexOf_error h7] at h
    cases h
    exact .inl ⟨h7, rfl⟩

/-! ### Taking a fault and advancing keep the invariant -/

/-- The info of a decode fault is within the range of its code (60_exceptions.md R270). -/
theorem raisedByDecode_fits {s : State} {w : Word} {e : DecodeFault} (h : decode w = .error e) :
    RaisedFits s (raisedByDecode e) := by
  intro hp
  rcases decode_error h with ⟨h7, rfl⟩ | ⟨_, hv, rfl⟩
  · exact ⟨hp, h7, Nat.le_of_lt_succ w.b2.isLt⟩
  · refine ⟨hp, Nat.le_of_lt_succ w.b3.isLt, fun hval => ?_⟩
    exact Bool.eq_false_iff.mp hv (valid_iff.mpr hval)

/-- A fault whose info fits its code leaves a state with the invariant. -/
theorem takeFault_inv {s : State} {e : Raised} (hi : s.Inv)
    (hfit : e.code.infoFits s.pc e.info) : (s.takeFault e).Inv where
  memCanonical := hi.memCanonical
  pcInRange := hi.pcInRange
  status := ⟨rfl, rfl, hfit⟩

/-- The halt check or the increment (47_control_and_run_loop.md R254, R255) establishes the invariant
in a running state with canonical memory, whose pc leaves room for the increment. -/
theorem advance_inv {t : State} (hrun : t.status = .running) (hmem : t.mem.wf = true)
    (hpc : t.pc ≤ 131070) : t.advance.Inv := by
  rw [advance_of_running hrun]
  split
  · rename_i hhalt
    exact ⟨hmem, Nat.le_succ_of_le hpc, hhalt⟩
  · refine ⟨hmem, Nat.succ_le_succ hpc, ?_⟩
    simp only [State.statusFits, hrun]

/-- A plain effect keeps memory canonical: it writes inside memory or not at all. -/
theorem PlainEffect.mem_wf {i : Instr} {s t : State} (h : PlainEffect i s t)
    (hs : s.mem.wf = true) : t.mem.wf = true := by
  rcases h.mem with hm | ⟨w, ha, hm⟩
  · rw [hm]; exact hs
  · rw [hm]; exact write_wf w hs ha

/-- A plain effect that starts inside memory ends at a pc that leaves room for the increment. -/
theorem PlainEffect.pc_le {i : Instr} {s t : State} (h : PlainEffect i s t) (hp : s.pc < 4000) :
    t.pc ≤ 131070 := by
  rcases h.pc with h | h <;> omega

/-- Settles O53: each of the three things a step can do (`step_cases`) ends in a fault that fits or in an
advance from a plain effect. -/
theorem everyStepKeepsTheInvariant : Obligations.EveryStepKeepsTheInvariant := by
  intro s t hi h
  obtain ⟨hrun, hfetch | ⟨hp, e, hd, rfl⟩ | ⟨hp, i, u, hd, hx, rfl⟩⟩ := step_cases h
  · obtain ⟨hp, rfl⟩ := hfetch
    exact takeFault_inv hi ⟨hp, rfl⟩
  · exact takeFault_inv hi (raisedByDecode_fits hd hp)
  · rcases exec_outcome (decode_wellFormed hd) hx with ⟨e, rfl, hfit⟩ | hplain
    · rw [advance_of_faulted (takeFault_status s e)]
      exact takeFault_inv hi (hfit hp)
    · exact advance_inv (hplain.status.trans hrun) (hplain.mem_wf hi.memCanonical)
        (hplain.pc_le hp)

end Sys2Proof.Machine
end

section
/-! PROOFS. The peripheral area is inert (10_state.md R33): every operation commutes with putting other
bytes there. -/

namespace Sys2Proof.Machine

/-- `s` with other bytes in the peripheral area. -/
def State.withPeriph (p : Vector Byte Config.periphBytes) (s : State) : State :=
  { s with periph := p }

section
variable (p : Vector Byte Config.periphBytes) (s : State)

@[simp] theorem withPeriph_reg (r : Reg) : (s.withPeriph p).reg r = s.reg r := by
  cases r <;> rfl

@[simp] theorem withPeriph_setReg (r : Reg) (w : Word) :
    (s.withPeriph p).setReg r w = (s.setReg r w).withPeriph p := by
  cases r <;> rfl

theorem withPeriph_jumpIf (taken : Bool) (m : Nat) (save : Bool) :
    (s.withPeriph p).jumpIf taken m save = (s.jumpIf taken m save).withPeriph p := by
  cases taken <;> cases save <;> rfl

theorem withPeriph_advance : (s.withPeriph p).advance = s.advance.withPeriph p := by
  have hst : (s.withPeriph p).status = s.status := rfl
  have hpc : (s.withPeriph p).pc = s.pc := rfl
  unfold State.advance
  rw [hst, hpc]
  split
  · split <;> rfl
  · rfl
  · rfl

theorem withPeriph_addInto (r : Reg) (w : Word) (f : FieldSpec) :
    (s.withPeriph p).addInto r w f = (s.addInto r w f).map (State.withPeriph p) := by
  unfold State.addInto
  rw [withPeriph_reg]
  cases addWords (s.reg r) w f with
  | error e => rfl
  | ok res => exact congrArg (fun u => Except.ok (u.setOv res.2)) (withPeriph_setReg p s r res.1)

theorem withPeriph_multiplyInto (w : Word) (f : FieldSpec) :
    (s.withPeriph p).multiplyInto w f = (s.multiplyInto w f).map (State.withPeriph p) := by
  unfold State.multiplyInto
  rw [withPeriph_reg]
  cases multiplyWords (s.reg .A) w f <;> rfl

theorem withPeriph_divideInto (w : Word) (f : FieldSpec) :
    (s.withPeriph p).divideInto w f = (s.divideInto w f).map (State.withPeriph p) := by
  unfold State.divideInto
  rw [withPeriph_reg, withPeriph_reg]
  cases divideWords (s.reg .A) (s.reg .X) w f <;> rfl

end

variable {p : Vector Byte Config.periphBytes} {s t : State}

theorem conclude_withPeriph {r r' : Except Raised State} (hr : r' = r.map (State.withPeriph p))
    (h : s.conclude r = .next t) : (s.withPeriph p).conclude r' = .next (t.withPeriph p) := by
  subst hr
  rcases conclude_cases h with rfl | ⟨e, rfl, rfl⟩ <;> rfl

theorem withMemoryWord_withPeriph {m : Nat} {k k' : Word → Except Raised State}
    (hk : ∀ w, k' w = (k w).map (State.withPeriph p)) (h : s.withMemoryWord m k = .next t) :
    (s.withPeriph p).withMemoryWord m k' = .next (t.withPeriph p) := by
  rcases Nat.lt_or_ge m 4000 with hm | hm
  · rw [withMemoryWord_of_lt hm] at h ⊢
    exact conclude_withPeriph (hk _) h
  · rw [withMemoryWord_of_ge hm] at h ⊢
    cases h
    rfl

theorem loadIndex_withPeriph {i : IndexReg} {a : Operand} {f : FieldSpec}
    (h : s.loadIndex i a f = .next t) :
    (s.withPeriph p).loadIndex i a f = .next (t.withPeriph p) := by
  refine withMemoryWord_withPeriph (fun w => ?_) h
  rw [withPeriph_reg]
  cases copyWordFieldsI w (s.reg (indexReg i)) f with
  | error e => rfl
  | ok u => exact congrArg Except.ok (withPeriph_setReg p s _ u)

theorem loadIndexNegated_withPeriph {i : IndexReg} {a : Operand} {f : FieldSpec}
    (h : s.loadIndexNegated i a f = .next t) :
    (s.withPeriph p).loadIndexNegated i a f = .next (t.withPeriph p) := by
  refine withMemoryWord_withPeriph (fun w => ?_) h
  rw [withPeriph_reg]
  cases copyWordFieldsI w (s.reg (indexReg i)) f with
  | error e => rfl
  | ok u => exact congrArg Except.ok (withPeriph_setReg p s _ (negate u))

theorem enterNegative_withPeriph {r : Reg} {a : Operand} (h : s.enterNegative r a = .next t) :
    (s.withPeriph p).enterNegative r a = .next (t.withPeriph p) := by
  cases h
  unfold State.enterNegative
  split
  · exact congrArg Host.Outcome.next (withPeriph_setReg p s r _)
  · rfl

/-- No instruction reads the peripheral area or treats it as anything but a part to carry along. -/
theorem exec_withPeriph {i : Instr} (h : exec i s = .next t) :
    exec i (s.withPeriph p) = .next (t.withPeriph p) := by
  cases i
  case add a f | sub a f =>
    exact withMemoryWord_withPeriph (fun _ => withPeriph_addInto p s _ _ f) h
  case mul a f => exact withMemoryWord_withPeriph (fun _ => withPeriph_multiplyInto p s _ f) h
  case div a f => exact withMemoryWord_withPeriph (fun _ => withPeriph_divideInto p s _ f) h
  case lda a f | ldx a f | ldan a f | ldxn a f | sta a f | stx a f | stj a f | stz a f | st1 a f |
      st2 a f | st3 a f | st4 a f | st5 a f | st6 a f | cmpa a f | cmpx a f | cmp1 a f | cmp2 a f |
      cmp3 a f | cmp4 a f | cmp5 a f | cmp6 a f =>
    exact withMemoryWord_withPeriph (fun _ => rfl) h
  case ld1 a f | ld2 a f | ld3 a f | ld4 a f | ld5 a f | ld6 a f =>
    exact loadIndex_withPeriph h
  case ld1n a f | ld2n a f | ld3n a f | ld4n a f | ld5n a f | ld6n a f =>
    exact loadIndexNegated_withPeriph h
  case inca a | incx a | inc1 a | inc2 a | inc3 a | inc4 a | inc5 a | inc6 a | deca a | decx a |
      dec1 a | dec2 a | dec3 a | dec4 a | dec5 a | dec6 a =>
    exact conclude_withPeriph (s := s) (withPeriph_addInto p s _ _ wholeWord) h
  case enna a | ennx a | enn1 a | enn2 a | enn3 a | enn4 a | enn5 a | enn6 a =>
    exact enterNegative_withPeriph h
  case enta a | entx a | ent1 a | ent2 a | ent3 a | ent4 a | ent5 a | ent6 a | sla a | sra a |
      slc a | src a | slax a | srax a | nop a f | nopUnmapped a c f | hlt a =>
    cases h
    rfl
  case jov a | jnov a =>
    cases h
    exact congrArg Host.Outcome.next (withPeriph_jumpIf p (s.setOv false) _ _ _)
  all_goals
    cases h
    exact congrArg Host.Outcome.next (withPeriph_jumpIf p s _ _ _)

/-! ### The step, case by case: the converses of `step_cases` -/

theorem step_of_pc_ge (hrun : s.status = .running) (hp : 4000 ≤ s.pc) :
    step s = .next (s.takeFault ⟨.fetchOutOfRange, s.pc⟩) := by
  simp only [step, hrun, fetchedWord_of_ge hp]

theorem step_of_decode_error {e : DecodeFault} (hrun : s.status = .running) (hp : s.pc < 4000)
    (hd : decode (s.mem.read s.pc) = .error e) : step s = .next (s.takeFault (raisedByDecode e)) := by
  simp only [step, hrun, fetchedWord_of_lt hp, hd]

theorem step_of_exec {i : Instr} {u : State} (hrun : s.status = .running) (hp : s.pc < 4000)
    (hd : decode (s.mem.read s.pc) = .ok i) (hx : exec i s = .next u) :
    step s = .next u.advance := by
  simp only [step, hrun, fetchedWord_of_lt hp, hd, hx]

/-- No step reads the peripheral area: with other bytes there it does the same to everything else. -/
theorem step_withPeriph (h : step s = .next t) :
    step (s.withPeriph p) = .next (t.withPeriph p) := by
  obtain ⟨hrun, hfetch | ⟨hp, e, hd, rfl⟩ | ⟨hp, i, u, hd, hx, rfl⟩⟩ := step_cases h
  · obtain ⟨hp, rfl⟩ := hfetch
    exact step_of_pc_ge (s := s.withPeriph p) hrun hp
  · exact step_of_decode_error (s := s.withPeriph p) hrun hp hd
  · rw [← withPeriph_advance]
    exact step_of_exec (s := s.withPeriph p) hrun hp hd (exec_withPeriph hx)

/-- No step changes the peripheral area. -/
theorem step_periph (h : step s = .next t) : t.periph = s.periph := by
  obtain ⟨_, ⟨_, rfl⟩ | ⟨_, _, _, rfl⟩ | ⟨_, i, u, hd, hx, rfl⟩⟩ := step_cases h
  · exact takeFault_periph s _
  · exact takeFault_periph s _
  · rw [advance_periph]
    rcases exec_outcome (decode_wellFormed hd) hx with ⟨e, rfl, _⟩ | hplain
    · exact takeFault_periph s e
    · exact hplain.periph

/-- Settles O54: one frame lemma and one lemma over two runs, each by what a step can do. -/
theorem peripheralAreaIsInert : Obligations.PeripheralAreaIsInert :=
  fun _ _ _ h => ⟨step_periph h, step_withPeriph h⟩

end Sys2Proof.Machine
end

section
/-! PROOFS. Who writes the registers and the flags (10_state.md R24 to R29). `WritesOnly` bounds the
registers and flags an instruction may change as `PlainEffect` bounds memory, pc and status, and one case
analysis over the instructions proves it. -/

namespace Sys2Proof.Machine

/-- From `s` to `t` at most the registers `rs` change, OV only where `ov` says so, and CMP only where
`cmp` does. -/
structure WritesOnly (rs : List Reg) (ov cmp : Bool) (s t : State) : Prop where
  regs : s.sameRegsBut rs t
  ov : ov = false → t.ov = s.ov
  cmp : cmp = false → t.cmp = s.cmp

/-- The instructions that may write OV: ADD, SUB, DIV, INC, DEC, JOV and JNOV (R28). -/
def mayWriteOv : Instr → Bool
  | .add _ _ | .sub _ _ | .div _ _ | .inca _ | .deca _ | .inc1 _ | .dec1 _ | .inc2 _ | .dec2 _
  | .inc3 _ | .dec3 _ | .inc4 _ | .dec4 _ | .inc5 _ | .dec5 _ | .inc6 _ | .dec6 _ | .incx _
  | .decx _ | .jov _ | .jnov _ => true
  | _ => false

/-- The instructions that may write CMP: the compares (R29). -/
def mayWriteCmp : Instr → Bool
  | .cmpa _ _ | .cmp1 _ _ | .cmp2 _ _ | .cmp3 _ _ | .cmp4 _ _ | .cmp5 _ _ | .cmp6 _ _
  | .cmpx _ _ => true
  | _ => false

variable {rs : List Reg} {ov cmp : Bool} {s t : State}

theorem writesOnly_self : WritesOnly rs ov cmp s s :=
  ⟨fun _ _ => rfl, fun _ => rfl, fun _ => rfl⟩

theorem writesOnly_takeFault (e : Raised) : WritesOnly rs ov cmp s (s.takeFault e) :=
  ⟨fun r _ => takeFault_reg s e r, fun _ => rfl, fun _ => rfl⟩

theorem WritesOnly.setReg (h : WritesOnly rs ov cmp s t) {r : Reg} (hr : r ∈ rs) (w : Word) :
    WritesOnly rs ov cmp s (t.setReg r w) where
  regs q hq := by
    have hqr : q ≠ r := fun e => hq (e ▸ hr)
    rw [setReg_reg, if_neg hqr]
    exact h.regs q hq
  ov := by simpa using h.ov
  cmp := by simpa using h.cmp

theorem WritesOnly.setOv (h : WritesOnly rs true cmp s t) (v : Bool) :
    WritesOnly rs true cmp s (t.setOv v) where
  regs q hq := by rw [setOv_reg]; exact h.regs q hq
  ov := fun hf => by cases hf
  cmp := h.cmp

theorem writesOnly_setCmp (c : Cmp) : WritesOnly rs ov true s (s.setCmp c) :=
  ⟨fun r _ => setCmp_reg s c r, fun _ => rfl, fun hf => by cases hf⟩

theorem writesOnly_writeWord (a : Nat) (w : Word) : WritesOnly rs ov cmp s (s.writeWord a w) :=
  ⟨fun r _ => writeWord_reg s a w r, fun _ => rfl, fun _ => rfl⟩

/-- A jump writes rJ only if it saves. -/
theorem WritesOnly.jumpIf (h : WritesOnly rs ov cmp s t) (taken : Bool) (m : Nat) {save : Bool}
    (hJ : save = true → Reg.J ∈ rs) : WritesOnly rs ov cmp s (t.jumpIf taken m save) where
  regs q hq := by
    have hc : ¬ (taken = true ∧ save = true ∧ q = .J) := fun ⟨_, hs, e⟩ => hq (e ▸ hJ hs)
    rw [jumpIf_reg, if_neg hc]
    exact h.regs q hq
  ov := by simpa using h.ov
  cmp := by simpa using h.cmp

theorem writesOnly_conclude {r : Except Raised State} (h : s.conclude r = .next t)
    (hok : ∀ u, r = .ok u → WritesOnly rs ov cmp s u) : WritesOnly rs ov cmp s t := by
  rcases conclude_cases h with hr | ⟨e, _, rfl⟩
  · exact hok t hr
  · exact writesOnly_takeFault e

theorem writesOnly_withMemoryWord {m : Nat} {k : Word → Except Raised State}
    (h : s.withMemoryWord m k = .next t)
    (hok : ∀ w u, k w = .ok u → WritesOnly rs ov cmp s u) : WritesOnly rs ov cmp s t := by
  rcases withMemoryWord_cases h with ⟨_, rfl⟩ | ⟨_, hk⟩ | ⟨_, e, _, rfl⟩
  · exact writesOnly_takeFault _
  · exact hok _ t hk
  · exact writesOnly_takeFault e

theorem writesOnly_setReg (r : Reg) (w : Word) : WritesOnly [r] ov cmp s (s.setReg r w) :=
  writesOnly_self.setReg (List.mem_singleton_self r) w

theorem writesOnly_setRegPair (u l : Word) :
    WritesOnly [.A, .X] ov cmp s ((s.setReg .A u).setReg .X l) :=
  (writesOnly_self.setReg (by decide) u).setReg (by decide) l

theorem writesOnly_addInto {r : Reg} {w : Word} {f : FieldSpec} (h : s.addInto r w f = .ok t) :
    WritesOnly [r] true cmp s t := by
  rcases addInto_cases s r w f with ⟨_, h'⟩ | ⟨_, res, o, _, h'⟩ <;> rw [h'] at h <;> cases h
  exact (writesOnly_setReg r res).setOv o

theorem writesOnly_multiplyInto {w : Word} {f : FieldSpec} (h : s.multiplyInto w f = .ok t) :
    WritesOnly [.A, .X] ov cmp s t := by
  rcases multiplyInto_cases s w f with ⟨_, h'⟩ | ⟨_, u, l, _, h'⟩ <;> rw [h'] at h <;> cases h
  exact writesOnly_setRegPair u l

theorem writesOnly_divideInto {w : Word} {f : FieldSpec} (h : s.divideInto w f = .ok t) :
    WritesOnly [.A, .X] true cmp s t := by
  rcases divideInto_cases s w f with ⟨e, _, h'⟩ | ⟨q, r, d, _, h'⟩ <;> rw [h'] at h <;> cases h
  exact (writesOnly_setRegPair q r).setOv d

/-- INC and DEC add an immediate word. -/
theorem writesOnly_addImmediate {r : Reg} {w : Word}
    (h : s.conclude (s.addInto r w wholeWord) = .next t) : WritesOnly [r] true cmp s t :=
  writesOnly_conclude h fun _ => writesOnly_addInto

theorem writesOnly_loadIndex {i : IndexReg} {a : Operand} {f : FieldSpec}
    (h : s.loadIndex i a f = .next t) : WritesOnly [indexReg i] ov cmp s t := by
  refine writesOnly_withMemoryWord h fun w u hk => ?_
  rcases hc : copyWordFieldsI w (s.reg (indexReg i)) f with e | v <;> rw [hc] at hk <;> cases hk
  exact writesOnly_setReg _ v

theorem writesOnly_loadIndexNegated {i : IndexReg} {a : Operand} {f : FieldSpec}
    (h : s.loadIndexNegated i a f = .next t) : WritesOnly [indexReg i] ov cmp s t := by
  refine writesOnly_withMemoryWord h fun w u hk => ?_
  rcases hc : copyWordFieldsI w (s.reg (indexReg i)) f with e | v <;> rw [hc] at hk <;> cases hk
  exact writesOnly_setReg _ (negate v)

theorem writesOnly_enterNegative {r : Reg} {a : Operand} (h : s.enterNegative r a = .next t) :
    WritesOnly [r] ov cmp s t := by
  cases h
  split
  · exact writesOnly_setReg r _
  · exact writesOnly_self

/-- Every instruction writes only the registers of the access summary, OV only if R28 names it and CMP
only if R29 does. -/
theorem exec_writesOnly {i : Instr} (h : exec i s = .next t) :
    WritesOnly (mayWrite i) (mayWriteOv i) (mayWriteCmp i) s t := by
  cases i
  case add a f | sub a f => exact writesOnly_withMemoryWord h fun _ _ => writesOnly_addInto
  case mul a f => exact writesOnly_withMemoryWord h fun _ _ => writesOnly_multiplyInto
  case div a f => exact writesOnly_withMemoryWord h fun _ _ => writesOnly_divideInto
  case lda a f | ldx a f | ldan a f | ldxn a f =>
    exact writesOnly_withMemoryWord h fun _ _ hk => by cases hk; exact writesOnly_setReg _ _
  case ld1 a f | ld2 a f | ld3 a f | ld4 a f | ld5 a f | ld6 a f =>
    exact writesOnly_loadIndex h
  case ld1n a f | ld2n a f | ld3n a f | ld4n a f | ld5n a f | ld6n a f =>
    exact writesOnly_loadIndexNegated h
  case sta a f | stx a f | stj a f | stz a f | st1 a f | st2 a f | st3 a f | st4 a f | st5 a f |
      st6 a f =>
    exact writesOnly_withMemoryWord h fun _ _ hk => by cases hk; exact writesOnly_writeWord _ _
  case cmpa a f | cmpx a f | cmp1 a f | cmp2 a f | cmp3 a f | cmp4 a f | cmp5 a f | cmp6 a f =>
    exact writesOnly_withMemoryWord h fun _ _ hk => by cases hk; exact writesOnly_setCmp _
  case inca a | incx a | inc1 a | inc2 a | inc3 a | inc4 a | inc5 a | inc6 a | deca a | decx a |
      dec1 a | dec2 a | dec3 a | dec4 a | dec5 a | dec6 a =>
    exact writesOnly_addImmediate h
  case enna a | ennx a | enn1 a | enn2 a | enn3 a | enn4 a | enn5 a | enn6 a =>
    exact writesOnly_enterNegative h
  case enta a | entx a | ent1 a | ent2 a | ent3 a | ent4 a | ent5 a | ent6 a | sla a | sra a |
      slc a | src a =>
    cases h
    exact writesOnly_setReg _ _
  case slax a | srax a =>
    cases h
    exact writesOnly_setRegPair _ _
  case nop a f | nopUnmapped a c f =>
    cases h
    exact writesOnly_self
  case hlt a =>
    cases h
    exact ⟨fun r _ => setPc_reg s _ r, fun _ => rfl, fun _ => rfl⟩
  case jsj a =>
    cases h
    exact writesOnly_self.jumpIf _ _ nofun
  case jov a | jnov a =>
    cases h
    exact (writesOnly_self.setOv false).jumpIf _ _ fun _ => List.mem_singleton_self _
  all_goals
    cases h
    exact writesOnly_self.jumpIf _ _ fun _ => List.mem_singleton_self _

/-- The instructions that may write rJ are the jumps that save: each goes to M on its own condition, after
setting OV to `v`, which is the old OV for all but JOV and JNOV. -/
theorem exec_savingJump {i : Instr} (hJ : Reg.J ∈ mayWrite i) (s : State) :
    ∃ taken v, exec i s = .next ((s.setOv v).jumpIf taken (s.effAddr i.operand) true) := by
  cases i
  case jov a | jnov a => exact ⟨_, false, rfl⟩
  case jmp a | jl a | je a | jg a | jge a | jne a | jle a | jan a | jaz a | jap a | jann a |
      janz a | janp a | j1n a | j1z a | j1p a | j1nn a | j1nz a | j1np a | j2n a | j2z a | j2p a |
      j2nn a | j2nz a | j2np a | j3n a | j3z a | j3p a | j3nn a | j3nz a | j3np a | j4n a | j4z a |
      j4p a | j4nn a | j4nz a | j4np a | j5n a | j5z a | j5p a | j5nn a | j5nz a | j5np a | j6n a |
      j6z a | j6p a | j6nn a | j6nz a | j6np a | jxn a | jxz a | jxp a | jxnn a | jxnz a | jxnp a =>
    exact ⟨_, s.ov, rfl⟩
  all_goals simp [mayWrite] at hJ

/-- A saving jump that changes rJ was taken: rJ has the address after the instruction and pc is M. -/
theorem savingJump_rJ {v taken : Bool} {m : Nat}
    (h : ((s.setOv v).jumpIf taken m true).rJ ≠ s.rJ) :
    ((s.setOv v).jumpIf taken m true).rJ = mkword .plus (s.pc + 1) ∧
      ((s.setOv v).jumpIf taken m true).pc = m := by
  cases taken
  · exact absurd rfl h
  · exact ⟨rfl, rfl⟩

/-- Settles O55: the access summary by `exec_writesOnly`; and since only a saving jump may write rJ, rJ
changes only in one that is taken. -/
theorem registersHaveOnlyTheirWriters : Obligations.RegistersHaveOnlyTheirWriters := by
  intro i s t h
  have hregs : ∀ r, t.reg r ≠ s.reg r → r ∈ mayWrite i := fun r hne =>
    not_imp_comm.mp ((exec_writesOnly h).regs r) hne
  refine ⟨hregs, fun hJ => ?_⟩
  obtain ⟨taken, v, hx⟩ := exec_savingJump (hregs .J hJ) s
  cases h.symm.trans hx
  exact savingJump_rJ hJ

/-- JOV and JNOV clear OV, taken or not (45_jump.md R203, R204). -/
theorem overflowJump_ov {taken : Bool} {a : Operand} (h : s.overflowJump taken a = .next t) :
    t.ov = false := by
  cases h
  exact jumpIf_ov _ _ _ _

/-- The instructions that may write OV, by the opcode and F of their words; JOV and JNOV only clear it. -/
theorem exec_ov_writer {i : Instr} (h : exec i s = .next t) (hw : mayWriteOv i = true) :
    (encode i).b4.toNat = 1 ∨ (encode i).b4.toNat = 2 ∨ (encode i).b4.toNat = 4 ∨
      (48 ≤ (encode i).b4.toNat ∧ (encode i).b4.toNat ≤ 55 ∧ (encode i).b3.toNat ≤ 1) ∨
      ((encode i).b4.toNat = 39 ∧ 2 ≤ (encode i).b3.toNat ∧ (encode i).b3.toNat ≤ 3 ∧
        t.ov = false) := by
  cases i
  case add a f => exact .inl rfl
  case sub a f => exact .inr (.inl rfl)
  case div a f => exact .inr (.inr (.inl rfl))
  case inca a | incx a | inc1 a | inc2 a | inc3 a | inc4 a | inc5 a | inc6 a | deca a | decx a |
      dec1 a | dec2 a | dec3 a | dec4 a | dec5 a | dec6 a =>
    simp [encode, instrWord]
  case jov a | jnov a =>
    simp [encode, instrWord, overflowJump_ov h]
  all_goals cases hw

/-- The instructions that may write CMP have the opcodes 56 to 63. -/
theorem cmpWriter_opcode {i : Instr} (hw : mayWriteCmp i = true) :
    56 ≤ (encode i).b4.toNat ∧ (encode i).b4.toNat ≤ 63 := by
  cases i
  case cmpa a f | cmpx a f | cmp1 a f | cmp2 a f | cmp3 a f | cmp4 a f | cmp5 a f | cmp6 a f =>
    simp [encode, instrWord]
  all_goals cases hw

/-- Settles O56: a flag that changed has one of its writers (`exec_writesOnly`), whose words the encoder
gives. -/
theorem flagsHaveOnlyTheirWriters : Obligations.FlagsHaveOnlyTheirWriters := by
  intro i s t h
  have hw := exec_writesOnly h
  exact ⟨fun hne => exec_ov_writer h (Bool.of_not_eq_false fun hf => hne (hw.ov hf)),
    fun hne => cmpWriter_opcode (Bool.of_not_eq_false fun hf => hne (hw.cmp hf))⟩

end Sys2Proof.Machine
end

section
/-! PROOFS. The numbers of words (10_state.md R20 to R22). -/

namespace Sys2Proof.Machine

/-- The magnitude as the big-endian sum of the bytes. -/
theorem mag_eq_sum (w : Word) : mag w =
    w.b0.toNat * 256 ^ 4 + w.b1.toNat * 256 ^ 3 + w.b2.toNat * 256 ^ 2 + w.b3.toNat * 256 +
      w.b4.toNat := by
  simp only [mag, windowMag_succ, windowMag_zero, Word.byte]
  ring

/-- Byte `k` is the digit `4 - k` of the magnitude in base 256. -/
theorem byte_eq_digit (w : Word) {k : Nat} (hk : k < 5) :
    (w.byte k).toNat = mag w / 256 ^ (4 - k) % 256 := by
  have h0 := w.b0.isLt; have h1 := w.b1.isLt; have h2 := w.b2.isLt
  have h3 := w.b3.isLt; have h4 := w.b4.isLt
  rw [mag_eq_sum]
  interval_cases k <;> simp only [Word.byte] <;> omega

/-- A word is made again from its sign and magnitude. -/
theorem mkword_mag (w : Word) : mkword w.sign (mag w) = w :=
  word_ext rfl fun k hk => BitVec.eq_of_toNat_eq <| by
    rw [mkword_byte _ _ hk, byte_eq_digit w hk]

theorem val_eq (w : Word) : val w = if w.sign = .plus then (mag w : Int) else -(mag w : Int) := by
  unfold val
  cases w.sign <;> rfl

/-- Settles O10, from the digits of the magnitude in base 256. -/
theorem makeWordInvertsMagnitude : Obligations.MakeWordInvertsMagnitude :=
  ⟨fun s _ hn => ⟨mkword_sign s _, mag_mkword_of_lt s hn⟩,
    fun w => ⟨mag_lt w, mkword_mag w⟩, mag_eq_sum, val_eq⟩

end Sys2Proof.Machine
end

section
/-! PROOFS. Who writes memory (20_memory.md R52, R54, R56). Only a store does, by one case analysis over
the instructions; and the word at the pc is the encoding of the instruction that a step runs, so that its
opcode and its resolved address are those of the instruction. -/

namespace Sys2Proof

/-! ### A word is the encoding of the instruction it decodes to (30_encoding.md R70, R83) -/

/-- What `r` answers, if anything, is encoded with the operand `a` and the bytes `f` and `c`. -/
def EncodesBack (a : Operand) (f c : Byte) (r : Except DecodeFault Instr) : Prop :=
  ∀ i, r = .ok i → encode i = instrWord a f c

section
variable {a : Operand} {f c : Byte}

theorem encodesBack_nopUnmapped : EncodesBack a f c (.ok (.nopUnmapped a c f)) := by
  rintro _ ⟨⟩
  rfl

theorem encodesBack_fieldInstr {n : Nat} {k : FieldSpec → Instr} (hc : c.toNat = n)
    (hk : ∀ g, encode (k g) = instrWord a (fieldByte g) (BitVec.ofNat 8 n)) :
    EncodesBack a f c (fieldInstr f k) := by
  intro i h
  obtain ⟨_, rfl⟩ := fieldInstr_ok h
  subst hc
  rw [hk, fieldByte_splitField, BitVec.ofNat_toNat, BitVec.setWidth_eq]

/-- The instructions of a SUB-class opcode are listed in the order of their sub-codes. -/
theorem encodesBack_subInstr {n : Nat} {subs : List Instr} (hc : c.toNat = n)
    (hs : subs.map encode = (List.range subs.length).map fun k =>
      instrWord a (BitVec.ofNat 8 k) (BitVec.ofNat 8 n)) :
    EncodesBack a f c (subInstr a f c subs) := by
  intro i h
  rcases subInstr_ok h with h | ⟨_, rfl⟩
  · obtain ⟨hlt, rfl⟩ := List.getElem?_eq_some_iff.mp h
    subst hc
    simpa [hlt] using congrArg (·[f.toNat]?) hs
  · rfl

theorem encodesBack_dispatchControl : EncodesBack a f c (dispatchControl a f c) := by
  unfold dispatchControl
  split
  case h_1 =>
    rename_i hc
    rintro _ ⟨⟩
    exact congrArg (instrWord a f) (BitVec.eq_of_toNat_eq hc.symm)
  case h_6 =>
    rename_i hc
    split
    · rename_i hf
      rintro _ ⟨⟩
      exact congrArg₂ (instrWord a) (BitVec.eq_of_toNat_eq hf.symm) (BitVec.eq_of_toNat_eq hc.symm)
    · exact encodesBack_nopUnmapped
  case h_7 => exact encodesBack_subInstr ‹c.toNat = _› rfl
  case h_8 => exact encodesBack_nopUnmapped
  all_goals exact encodesBack_fieldInstr ‹c.toNat = _› fun _ => rfl

theorem encodesBack_dispatchLoads : EncodesBack a f c (dispatchLoads a f c) := by
  unfold dispatchLoads
  split
  case h_9 => exact encodesBack_nopUnmapped
  all_goals exact encodesBack_fieldInstr ‹c.toNat = _› fun _ => rfl

theorem encodesBack_dispatchNegativeLoads : EncodesBack a f c (dispatchNegativeLoads a f c) := by
  unfold dispatchNegativeLoads
  split
  case h_9 => exact encodesBack_nopUnmapped
  all_goals exact encodesBack_fieldInstr ‹c.toNat = _› fun _ => rfl

theorem encodesBack_dispatchStores : EncodesBack a f c (dispatchStores a f c) := by
  unfold dispatchStores
  split
  case h_11 => exact encodesBack_nopUnmapped
  all_goals exact encodesBack_fieldInstr ‹c.toNat = _› fun _ => rfl

theorem encodesBack_dispatchJumps : EncodesBack a f c (dispatchJumps a f c) := by
  unfold dispatchJumps
  split
  case h_10 => exact encodesBack_nopUnmapped
  all_goals exact encodesBack_subInstr ‹c.toNat = _› rfl

theorem encodesBack_dispatchTransfers : EncodesBack a f c (dispatchTransfers a f c) := by
  unfold dispatchTransfers
  split
  case h_9 => exact encodesBack_nopUnmapped
  all_goals exact encodesBack_subInstr ‹c.toNat = _› rfl

theorem encodesBack_dispatchCompares : EncodesBack a f c (dispatchCompares a f c) := by
  unfold dispatchCompares
  split
  case h_9 => exact encodesBack_nopUnmapped
  all_goals exact encodesBack_fieldInstr ‹c.toNat = _› fun _ => rfl

theorem encodesBack_dispatch : EncodesBack a f c (dispatch a f c) := by
  unfold dispatch
  split; exact encodesBack_dispatchControl
  split; exact encodesBack_dispatchLoads
  split; exact encodesBack_dispatchNegativeLoads
  split; exact encodesBack_dispatchStores
  split; exact encodesBack_nopUnmapped
  split; exact encodesBack_dispatchJumps
  split; exact encodesBack_dispatchTransfers
  split; exact encodesBack_dispatchCompares
  exact encodesBack_nopUnmapped

end

/-- A word that decodes is the encoding of what it decodes to. -/
theorem encode_of_decode {w : Word} {i : Instr} (h : decode w = .ok i) : encode i = w := by
  obtain ⟨x, hx, hd⟩ := decode_ok h
  rw [encodesBack_dispatch i hd, instrWord_fields hx]

/-- The encoder puts the instruction's operand into its word: the family EncodedOperand for every
instruction at once. -/
theorem encode_eq_instrWord (i : Instr) : ∃ f c, encode i = instrWord i.operand f c := by
  cases i <;> exact ⟨_, _, rfl⟩

end Sys2Proof

namespace Sys2Proof.Machine

/-! ### The resolved address, from the bytes of the word (30_encoding.md R72, R75, R76) -/

theorem wordAddress_instrWord (a : Operand) (f c : Byte) :
    wordAddress (instrWord a f c) = a.addr.toNat := by
  have h := a.addr.isLt
  simp only [wordAddress, instrWord, BitVec.extractLsb'_toNat]
  omega

theorem windowMag_lowTwoBytes (w : Word) : windowMag w 3 2 = lowTwoBytes w := by
  simp only [windowMag_succ, windowMag_zero, lowTwoBytes, Word.byte]
  omega

theorem resolvedAddress_instrWord (s : State) (a : Operand) (f c : Byte) :
    resolvedAddress s (instrWord a f c) = s.effAddr a := by
  obtain ⟨sg, ad, x⟩ := a
  rw [resolvedAddress, wordAddress_instrWord, State.effAddr]
  congr 1
  rcases x with _ | x
  · rfl
  · rw [State.indexOffset, windowMag_lowTwoBytes]
    cases x <;> rfl

theorem resolvedAddress_encode (s : State) (i : Instr) :
    resolvedAddress s (encode i) = s.effAddr i.operand := by
  obtain ⟨f, c, h⟩ := encode_eq_instrWord i
  rw [h, resolvedAddress_instrWord]

/-! ### The stores and their opcodes -/

/-- The stores (42_load_store.md R156 to R160). -/
def isStore : Instr → Bool
  | .sta _ _ | .stx _ _ | .stj _ _ | .stz _ _ | .st1 _ _ | .st2 _ _ | .st3 _ _ | .st4 _ _ | .st5 _ _
  | .st6 _ _ => true
  | _ => false

theorem isStore_opcode {i : Instr} (hs : isStore i = true) :
    24 ≤ (encode i).b4.toNat ∧ (encode i).b4.toNat ≤ 33 := by
  cases i
  case sta a f | stx a f | stj a f | stz a f | st1 a f | st2 a f | st3 a f | st4 a f | st5 a f |
      st6 a f =>
    simp [encode, instrWord]
  all_goals cases hs

/-! ### No other instruction changes memory -/

variable {s t : State}

theorem withMemoryWord_mem {m : Nat} {k : Word → Except Raised State}
    (h : s.withMemoryWord m k = .next t) (hok : ∀ w u, k w = .ok u → u.mem = s.mem) :
    t.mem = s.mem := by
  rcases withMemoryWord_cases h with ⟨_, rfl⟩ | ⟨_, hk⟩ | ⟨_, e, _, rfl⟩
  · exact takeFault_mem s _
  · exact hok _ t hk
  · exact takeFault_mem s e

theorem addInto_mem {r : Reg} {w : Word} {f : FieldSpec} (h : s.addInto r w f = .ok t) :
    t.mem = s.mem := by
  rcases addInto_cases s r w f with ⟨_, h'⟩ | ⟨_, res, o, _, h'⟩ <;> rw [h'] at h <;> cases h
  simp

/-- INC and DEC add an immediate word. -/
theorem addImmediate_mem {r : Reg} {w : Word}
    (h : s.conclude (s.addInto r w wholeWord) = .next t) : t.mem = s.mem := by
  rcases conclude_cases h with hr | ⟨e, _, rfl⟩
  · exact addInto_mem hr
  · exact takeFault_mem s e

theorem multiplyInto_mem {w : Word} {f : FieldSpec} (h : s.multiplyInto w f = .ok t) :
    t.mem = s.mem := by
  rcases multiplyInto_cases s w f with ⟨_, h'⟩ | ⟨_, u, l, _, h'⟩ <;> rw [h'] at h <;> cases h
  simp

theorem divideInto_mem {w : Word} {f : FieldSpec} (h : s.divideInto w f = .ok t) :
    t.mem = s.mem := by
  rcases divideInto_cases s w f with ⟨e, _, h'⟩ | ⟨q, r, d, _, h'⟩ <;> rw [h'] at h <;> cases h
  simp

theorem loadIndex_mem {i : IndexReg} {a : Operand} {f : FieldSpec}
    (h : s.loadIndex i a f = .next t) : t.mem = s.mem := by
  refine withMemoryWord_mem h fun w u hk => ?_
  rcases hc : copyWordFieldsI w (s.reg (indexReg i)) f with e | v <;> rw [hc] at hk <;> cases hk
  exact setReg_mem s _ v

theorem loadIndexNegated_mem {i : IndexReg} {a : Operand} {f : FieldSpec}
    (h : s.loadIndexNegated i a f = .next t) : t.mem = s.mem := by
  refine withMemoryWord_mem h fun w u hk => ?_
  rcases hc : copyWordFieldsI w (s.reg (indexReg i)) f with e | v <;> rw [hc] at hk <;> cases hk
  exact setReg_mem s _ (negate v)

theorem enterNegative_mem {r : Reg} {a : Operand} (h : s.enterNegative r a = .next t) :
    t.mem = s.mem := by
  cases h
  split
  · exact setReg_mem s r _
  · rfl

theorem exec_mem_of_not_store {i : Instr} (hs : isStore i = false) (h : exec i s = .next t) :
    t.mem = s.mem := by
  cases i
  case add a f | sub a f => exact withMemoryWord_mem h fun _ _ => addInto_mem
  case mul a f => exact withMemoryWord_mem h fun _ _ => multiplyInto_mem
  case div a f => exact withMemoryWord_mem h fun _ _ => divideInto_mem
  case lda a f | ldx a f | ldan a f | ldxn a f =>
    exact withMemoryWord_mem h fun _ _ hk => by cases hk; exact setReg_mem s _ _
  case ld1 a f | ld2 a f | ld3 a f | ld4 a f | ld5 a f | ld6 a f =>
    exact loadIndex_mem h
  case ld1n a f | ld2n a f | ld3n a f | ld4n a f | ld5n a f | ld6n a f =>
    exact loadIndexNegated_mem h
  case sta a f | stx a f | stj a f | stz a f | st1 a f | st2 a f | st3 a f | st4 a f | st5 a f |
      st6 a f =>
    cases hs
  case cmpa a f | cmpx a f | cmp1 a f | cmp2 a f | cmp3 a f | cmp4 a f | cmp5 a f | cmp6 a f =>
    exact withMemoryWord_mem h fun _ _ hk => by cases hk; exact setCmp_mem s _
  case inca a | incx a | inc1 a | inc2 a | inc3 a | inc4 a | inc5 a | inc6 a | deca a | decx a |
      dec1 a | dec2 a | dec3 a | dec4 a | dec5 a | dec6 a =>
    exact addImmediate_mem h
  case enna a | ennx a | enn1 a | enn2 a | enn3 a | enn4 a | enn5 a | enn6 a =>
    exact enterNegative_mem h
  case enta a | entx a | ent1 a | ent2 a | ent3 a | ent4 a | ent5 a | ent6 a | sla a | sra a |
      slc a | src a =>
    cases h
    exact setReg_mem s _ _
  case slax a | srax a =>
    cases h
    exact (setReg_mem _ _ _).trans (setReg_mem s _ _)
  case nop a f | nopUnmapped a c f | hlt a =>
    cases h
    rfl
  case jov a | jnov a =>
    cases h
    exact jumpIf_mem (s.setOv false) _ _ _
  all_goals
    cases h
    exact jumpIf_mem s _ _ _

/-- An address that a well-formed instruction changes is its M, inside memory, and the instruction is a
store. -/
theorem exec_changes_mem {i : Instr} {x : Nat} (hm : s.mem.wf = true) (hw : i.wellFormed = true)
    (h : exec i s = .next t) (hne : t.mem.read x ≠ s.mem.read x) :
    isStore i = true ∧ x = s.effAddr i.operand ∧ x ≤ 3999 := by
  have hmem : t.mem ≠ s.mem := fun e => hne (by rw [e])
  refine ⟨Bool.of_not_eq_false fun hs => hmem (exec_mem_of_not_store hs h), ?_⟩
  rcases exec_outcome hw h with ⟨e, rfl, _⟩ | hplain
  · exact absurd (takeFault_mem s e) hmem
  · rcases hplain.mem with heq | ⟨w, hlt, hwrite⟩
    · exact absurd heq hmem
    · rw [hwrite, read_write hm] at hne
      have hx : x = s.effAddr i.operand := by
        by_contra hx
        exact hne (if_neg hx)
      exact ⟨hx, hx ▸ Nat.le_of_lt_succ hlt⟩

/-- Settles O57: a step that changes memory has run an instruction (`step_cases`), which changes only its
own M and is a store (`exec_changes_mem`); the word at the pc is its encoding (`encode_of_decode`). -/
theorem onlyStoresWriteMemory : Obligations.OnlyStoresWriteMemory := by
  intro s t hm h x hne
  obtain ⟨_, ⟨_, rfl⟩ | ⟨_, _, _, rfl⟩ | ⟨_, i, u, hd, hx, rfl⟩⟩ := step_cases h
  · exact absurd rfl hne
  · exact absurd rfl hne
  · rw [advance_mem] at hne
    obtain ⟨hstore, hM, hle⟩ := exec_changes_mem hm (decode_wellFormed hd) hx hne
    obtain ⟨hlo, hhi⟩ := isStore_opcode hstore
    rw [← encode_of_decode hd, resolvedAddress_encode]
    exact ⟨hlo, hhi, hM, hle⟩

end Sys2Proof.Machine
end

section
/-! PROOFS. The encoder and the decoder are inverse to each other (30_encoding.md R70, R77, R80 to R84, R87).
One direction is `decode_wellFormed` with `encode_of_decode`; the other needs what the decoder makes of
the pairs of opcode and F that no row of the map selects. -/

namespace Sys2Proof

/-- Settles O5: the decoder answers only well-formed instructions, and a word that decodes is the encoding
of what it decodes to. -/
theorem encodeOfDecode : Obligations.EncodeOfDecode :=
  fun _ _ h => ⟨decode_wellFormed h, encode_of_decode h⟩

/-! ### What dispatch makes of an unmapped pair (R81, R82) -/

section
variable {a : Operand} {f c : Byte}

/-- An F beyond the sub-codes of a SUB-class opcode selects the no-operation. -/
theorem subInstr_of_length_le {subs : List Instr} (h : subs.length ≤ f.toNat) :
    subInstr a f c subs = .ok (.nopUnmapped a c f) := by
  rw [subInstr, List.getElem?_eq_none h]

theorem dispatchControl_unmapped
    (h : c.toNat = 7 ∨ (c.toNat = 5 ∧ f.toNat ≠ 2) ∨ (c.toNat = 6 ∧ 6 ≤ f.toNat)) :
    dispatchControl a f c = .ok (.nopUnmapped a c f) := by
  rcases h with h | ⟨h, hf⟩ | ⟨h, hf⟩
  · simp only [dispatchControl, h]
  · simp only [dispatchControl, h, if_neg hf]
  · simp only [dispatchControl, h]
    exact subInstr_of_length_le hf

theorem dispatchJumps_unmapped (h : 6 ≤ f.toNat) (h39 : c.toNat = 39 → 10 ≤ f.toNat) :
    dispatchJumps a f c = .ok (.nopUnmapped a c f) := by
  unfold dispatchJumps
  split
  case h_1 => exact subInstr_of_length_le (h39 ‹_›)
  case h_10 => rfl
  all_goals exact subInstr_of_length_le h

theorem dispatchTransfers_unmapped (h : 4 ≤ f.toNat) :
    dispatchTransfers a f c = .ok (.nopUnmapped a c f) := by
  unfold dispatchTransfers
  split
  case h_9 => rfl
  all_goals exact subInstr_of_length_le h

theorem dispatch_unmapped (h : unmappedPair c f = true) :
    dispatch a f c = .ok (.nopUnmapped a c f) := by
  have hu := unmappedPair_iff.mp h
  unfold dispatch
  split; exact dispatchControl_unmapped (by omega)
  split; omega
  split; omega
  split; omega
  split; rfl
  split; exact dispatchJumps_unmapped (by omega) (by omega)
  split; exact dispatchTransfers_unmapped (by omega)
  split; omega
  rfl

end

/-- Settles O4: the decoder finds the operand and the bytes F and C the encoder put into the word
(`decode_instrWord`), and dispatch on those bytes is a computation but for the field check and for the
no-operations of the unmapped pairs. -/
theorem decodeOfEncode : Obligations.DecodeOfEncode := by
  intro i hw
  cases i
  case nopUnmapped a c f => exact (decode_instrWord a f c).trans (dispatch_unmapped hw)
  case add a f | sub a f | mul a f | div a f | lda a f | ld1 a f | ld2 a f | ld3 a f | ld4 a f |
      ld5 a f | ld6 a f | ldx a f | ldan a f | ld1n a f | ld2n a f | ld3n a f | ld4n a f | ld5n a f |
      ld6n a f | ldxn a f | sta a f | st1 a f | st2 a f | st3 a f | st4 a f | st5 a f | st6 a f |
      stx a f | stj a f | stz a f | cmpa a f | cmp1 a f | cmp2 a f | cmp3 a f | cmp4 a f | cmp5 a f |
      cmp6 a f | cmpx a f =>
    exact (decode_instrWord a (fieldByte f) _).trans (fieldInstr_of_valid hw _)
  all_goals exact decode_instrWord _ _ _

end Sys2Proof
end

section
/-! PROOFS. What the decoder refuses, exactly (30_encoding.md R74, R79, R87). `decode_error` says what a
refusal has found; here stands which opcodes check the field. -/

namespace Sys2Proof.Machine

theorem splitField_valid_iff {b : Byte} : (splitField b).valid = true ↔ validField b.toNat :=
  valid_iff

theorem fieldInstr_error {f : Byte} (h : ¬ validField f.toNat) (k : FieldSpec → Instr) :
    fieldInstr f k = .error (.fieldSpecOutOfRange f.toNat) :=
  if_neg (splitField_valid_iff.not.mpr h)

/-- `r` is the field check on `f` for a FIELD-class opcode, and accepts for every other opcode. -/
def ChecksField (f c : Byte) (r : Except DecodeFault Instr) : Prop :=
  (fieldOpcode c.toNat ∧ ∃ k, r = fieldInstr f k) ∨ (¬ fieldOpcode c.toNat ∧ ∃ i, r = .ok i)

section
variable {a : Operand} {f c : Byte}

theorem checksField_fieldInstr (h : fieldOpcode c.toNat) (k : FieldSpec → Instr) :
    ChecksField f c (fieldInstr f k) :=
  .inl ⟨h, k, rfl⟩

theorem checksField_ok (h : ¬ fieldOpcode c.toNat) (i : Instr) : ChecksField f c (.ok i) :=
  .inr ⟨h, i, rfl⟩

theorem checksField_subInstr (h : ¬ fieldOpcode c.toNat) (subs : List Instr) :
    ChecksField f c (subInstr a f c subs) := by
  unfold subInstr
  split <;> exact checksField_ok h _

theorem checksField_dispatchControl (hu : c.toNat ≤ 7) :
    ChecksField f c (dispatchControl a f c) := by
  unfold dispatchControl
  split
  case h_1 => exact checksField_ok (by unfold fieldOpcode; omega) _
  case h_6 => split <;> exact checksField_ok (by unfold fieldOpcode; omega) _
  case h_7 => exact checksField_subInstr (by unfold fieldOpcode; omega) _
  case h_8 =>
    simp only [imp_false] at *
    exact checksField_ok (by unfold fieldOpcode; omega) _
  all_goals exact checksField_fieldInstr (by unfold fieldOpcode; omega) _

theorem checksField_dispatchLoads (hl : 8 ≤ c.toNat) (hu : c.toNat ≤ 15) :
    ChecksField f c (dispatchLoads a f c) := by
  have h : fieldOpcode c.toNat := by unfold fieldOpcode; omega
  unfold dispatchLoads
  split
  case h_9 => simp only [imp_false] at *; omega
  all_goals exact checksField_fieldInstr h _

theorem checksField_dispatchNegativeLoads (hl : 16 ≤ c.toNat) (hu : c.toNat ≤ 23) :
    ChecksField f c (dispatchNegativeLoads a f c) := by
  have h : fieldOpcode c.toNat := by unfold fieldOpcode; omega
  unfold dispatchNegativeLoads
  split
  case h_9 => simp only [imp_false] at *; omega
  all_goals exact checksField_fieldInstr h _

theorem checksField_dispatchStores (hl : 24 ≤ c.toNat) (hu : c.toNat ≤ 33) :
    ChecksField f c (dispatchStores a f c) := by
  have h : fieldOpcode c.toNat := by unfold fieldOpcode; omega
  unfold dispatchStores
  split
  case h_11 => simp only [imp_false] at *; omega
  all_goals exact checksField_fieldInstr h _

theorem checksField_dispatchJumps (h : ¬ fieldOpcode c.toNat) :
    ChecksField f c (dispatchJumps a f c) := by
  unfold dispatchJumps
  split
  case h_10 => exact checksField_ok h _
  all_goals exact checksField_subInstr h _

theorem checksField_dispatchTransfers (h : ¬ fieldOpcode c.toNat) :
    ChecksField f c (dispatchTransfers a f c) := by
  unfold dispatchTransfers
  split
  case h_9 => exact checksField_ok h _
  all_goals exact checksField_subInstr h _

theorem checksField_dispatchCompares (hl : 56 ≤ c.toNat) (hu : c.toNat ≤ 63) :
    ChecksField f c (dispatchCompares a f c) := by
  have h : fieldOpcode c.toNat := by unfold fieldOpcode; omega
  unfold dispatchCompares
  split
  case h_9 => simp only [imp_false] at *; omega
  all_goals exact checksField_fieldInstr h _

/-- Dispatch checks the field for the opcodes of the FIELD class, and refuses nothing else. -/
theorem checksField_dispatch (a : Operand) (f c : Byte) : ChecksField f c (dispatch a f c) := by
  unfold dispatch
  split; exact checksField_dispatchControl ‹_›
  split; exact checksField_dispatchLoads (by omega) ‹_›
  split; exact checksField_dispatchNegativeLoads (by omega) ‹_›
  split; exact checksField_dispatchStores (by omega) ‹_›
  split; exact checksField_ok (by unfold fieldOpcode; omega) _
  split; exact checksField_dispatchJumps (by unfold fieldOpcode; omega)
  split; exact checksField_dispatchTransfers (by unfold fieldOpcode; omega)
  split; exact checksField_dispatchCompares (by omega) ‹_›
  exact checksField_ok (by unfold fieldOpcode; omega) _

end

theorem decode_of_selector_ge {w : Word} (h : 7 ≤ w.b2.toNat) :
    decode w = .error (.invalidIndex w.b2.toNat) := by
  simp only [decode, indexOf_error h]

theorem decode_of_indexOf {w : Word} {x : Option IndexReg} (h : indexOf w.b2 = .ok x) :
    decode w = dispatch ⟨w.sign, addressField w, x⟩ w.b3 w.b4 := by
  simp only [decode, h]

/-- The three outcomes of R87. -/
theorem decode_outcome (w : Word) :
    (7 ≤ w.b2.toNat ∧ decode w = .error (.invalidIndex w.b2.toNat)) ∨
    (w.b2.toNat ≤ 6 ∧ fieldOpcode w.b4.toNat ∧ ¬ validField w.b3.toNat ∧
      decode w = .error (.fieldSpecOutOfRange w.b3.toNat)) ∨
    (w.b2.toNat ≤ 6 ∧ (fieldOpcode w.b4.toNat → validField w.b3.toNat) ∧
      ∃ i, decode w = .ok i) := by
  rcases Nat.lt_or_ge w.b2.toNat 7 with h | h7
  · have h6 := Nat.le_of_lt_succ h
    obtain ⟨x, hx⟩ := indexOf_ok h6
    rw [decode_of_indexOf hx]
    rcases checksField_dispatch _ w.b3 w.b4 with ⟨hc, k, hk⟩ | ⟨hc, hi⟩
    · rw [hk]
      by_cases hv : validField w.b3.toNat
      · exact .inr (.inr ⟨h6, fun _ => hv, _, if_pos (splitField_valid_iff.mpr hv)⟩)
      · exact .inr (.inl ⟨h6, hc, hv, fieldInstr_error hv k⟩)
    · exact .inr (.inr ⟨h6, fun h => absurd h hc, hi⟩)
  · exact .inl ⟨h7, decode_of_selector_ge h7⟩

/-- Settles O6: the three outcomes exclude each other. -/
theorem decodeRefusesExactly : Obligations.DecodeRefusesExactly := by
  intro w
  rcases decode_outcome w with ⟨h7, hd⟩ | ⟨h6, hc, hv, hd⟩ | ⟨h6, hcv, i, hd⟩
  · have h6 : ¬ w.b2.toNat ≤ 6 := by omega
    simp [hd, h7, h6]
  · have h7 : ¬ 7 ≤ w.b2.toNat := by omega
    simp [hd, h7, h6, hc, hv]
  · have h7 : ¬ 7 ≤ w.b2.toNat := by omega
    simpa [hd, h7, h6] using hcv

end Sys2Proof.Machine
end

section
/-! PROOFS. The no-operations (30_encoding.md R81, R82; 47_control_and_run_loop.md R251). -/

namespace Sys2Proof.Machine

/-- Opcode 0 and the unmapped pairs dispatch to one of the two no-operations. -/
theorem dispatch_noOperation {a : Operand} {f c : Byte} (h : c = 0 ∨ unmappedPair c f = true) :
    dispatch a f c = .ok (.nop a f) ∨ dispatch a f c = .ok (.nopUnmapped a c f) := by
  rcases h with rfl | h
  · exact .inl rfl
  · exact .inr (dispatch_unmapped h)

theorem step_of_exec_self {i : Instr} {s : State} (hrun : s.status = .running) (hp : s.pc ≤ 3999)
    (hd : decode (s.mem.read s.pc) = .ok i) (hx : exec i s = .next s) :
    step s = .next { s with pc := s.pc + 1 } := by
  rw [step_of_exec hrun (Nat.lt_succ_of_le hp) hd hx, advance_of_running hrun, if_neg (by omega)]

/-- Settles O7: such a word decodes to a no-operation, which leaves the state to the increment. -/
theorem unmappedPairsAreNoOperations : Obligations.UnmappedPairsAreNoOperations := by
  refine ⟨fun a c f s => ⟨rfl, rfl⟩, fun w s h => ⟨decode_of_selector_ge, fun h6 => ?_⟩⟩
  obtain ⟨x, hx⟩ := indexOf_ok h6
  rcases dispatch_noOperation h with hd | hd <;> have hd := (decode_of_indexOf hx).trans hd
  · exact ⟨_, hd, rfl, .inl rfl, fun hrun hp hw => step_of_exec_self hrun hp (hw ▸ hd) rfl⟩
  · exact ⟨_, hd, rfl, .inr rfl, fun hrun hp hw => step_of_exec_self hrun hp (hw ▸ hd) rfl⟩

end Sys2Proof.Machine
end

section
/-! PROOFS. The sign of the word matters only to address transfer (30_encoding.md R85): every other
instruction uses its operand through the resolved address alone. -/

namespace Sys2Proof.Machine

/-- `r` and `r'` refuse alike, or answer instructions that do the same in every state. -/
def SameMeaning (r r' : Except DecodeFault Instr) : Prop :=
  r.map exec = r'.map exec

theorem SameMeaning.answers {r r' : Except DecodeFault Instr} {i : Instr} (h : SameMeaning r r')
    (hr : r = .ok i) : ∃ j, r' = .ok j ∧ ∀ s, exec i s = exec j s := by
  subst hr
  cases r' with
  | error e => cases h
  | ok j => exact ⟨j, rfl, congrFun (Except.ok.inj h)⟩

theorem sameMeaning_fieldInstr {f : Byte} {k k' : FieldSpec → Instr}
    (h : ∀ g, exec (k g) = exec (k' g)) : SameMeaning (fieldInstr f k) (fieldInstr f k') := by
  unfold fieldInstr
  split
  · exact congrArg Except.ok (h _)
  · rfl

section
variable {a a' : Operand} {f c : Byte}

theorem sameMeaning_nopUnmapped :
    SameMeaning (.ok (.nopUnmapped a c f)) (.ok (.nopUnmapped a' c f)) :=
  rfl

theorem sameMeaning_subInstr {subs subs' : List Instr} (h : subs.map exec = subs'.map exec) :
    SameMeaning (subInstr a f c subs) (subInstr a' f c subs') := by
  have hf := congrArg (·[f.toNat]?) h
  simp only [List.getElem?_map] at hf
  unfold subInstr
  cases h1 : subs[f.toNat]? <;> cases h2 : subs'[f.toNat]? <;> rw [h1, h2] at hf
  · exact sameMeaning_nopUnmapped
  · cases hf
  · cases hf
  · exact congrArg Except.ok (Option.some.inj hf)

end

section
variable (a : Operand) (x : Sign) (f c : Byte)

theorem sameMeaning_dispatchControl :
    SameMeaning (dispatchControl a f c) (dispatchControl { a with sign := x } f c) := by
  unfold dispatchControl
  split
  case h_1 => rfl
  case h_6 => split <;> rfl
  case h_7 => exact sameMeaning_subInstr rfl
  case h_8 => exact sameMeaning_nopUnmapped
  all_goals exact sameMeaning_fieldInstr fun _ => rfl

theorem sameMeaning_dispatchLoads :
    SameMeaning (dispatchLoads a f c) (dispatchLoads { a with sign := x } f c) := by
  unfold dispatchLoads
  split
  case h_9 => exact sameMeaning_nopUnmapped
  all_goals exact sameMeaning_fieldInstr fun _ => rfl

theorem sameMeaning_dispatchNegativeLoads :
    SameMeaning (dispatchNegativeLoads a f c)
      (dispatchNegativeLoads { a with sign := x } f c) := by
  unfold dispatchNegativeLoads
  split
  case h_9 => exact sameMeaning_nopUnmapped
  all_goals exact sameMeaning_fieldInstr fun _ => rfl

theorem sameMeaning_dispatchStores :
    SameMeaning (dispatchStores a f c) (dispatchStores { a with sign := x } f c) := by
  unfold dispatchStores
  split
  case h_11 => exact sameMeaning_nopUnmapped
  all_goals exact sameMeaning_fieldInstr fun _ => rfl

theorem sameMeaning_dispatchJumps :
    SameMeaning (dispatchJumps a f c) (dispatchJumps { a with sign := x } f c) := by
  unfold dispatchJumps
  split
  case h_10 => exact sameMeaning_nopUnmapped
  all_goals exact sameMeaning_subInstr rfl

theorem sameMeaning_dispatchTransfers (h : 4 ≤ f.toNat) :
    SameMeaning (dispatchTransfers a f c) (dispatchTransfers { a with sign := x } f c) := by
  rw [dispatchTransfers_unmapped h, dispatchTransfers_unmapped h]
  exact sameMeaning_nopUnmapped

theorem sameMeaning_dispatchCompares :
    SameMeaning (dispatchCompares a f c) (dispatchCompares { a with sign := x } f c) := by
  unfold dispatchCompares
  split
  case h_9 => exact sameMeaning_nopUnmapped
  all_goals exact sameMeaning_fieldInstr fun _ => rfl

/-- Outside address transfer, dispatch makes the same of an operand with another sign. -/
theorem sameMeaning_dispatch (h : ¬ (48 ≤ c.toNat ∧ c.toNat ≤ 55 ∧ f.toNat ≤ 3)) :
    SameMeaning (dispatch a f c) (dispatch { a with sign := x } f c) := by
  unfold dispatch
  split; exact sameMeaning_dispatchControl a x f c
  split; exact sameMeaning_dispatchLoads a x f c
  split; exact sameMeaning_dispatchNegativeLoads a x f c
  split; exact sameMeaning_dispatchStores a x f c
  split; exact sameMeaning_nopUnmapped
  split; exact sameMeaning_dispatchJumps a x f c
  split; exact sameMeaning_dispatchTransfers a x f c (by omega)
  split; exact sameMeaning_dispatchCompares a x f c
  exact sameMeaning_nopUnmapped

end

/-- Settles O58: the word with the other sign dispatches on the same bytes, with an operand that differs in
the sign only. -/
theorem signMattersOnlyToAddressTransfer : Obligations.SignMattersOnlyToAddressTransfer := by
  intro w i hd hw
  obtain ⟨x, hx, hi⟩ := decode_ok hd
  rw [decode_of_indexOf (w := negate w) hx]
  exact (sameMeaning_dispatch _ w.sign.flip _ _ hw).answers hi

end Sys2Proof.Machine
end

section
/-! PROOFS. The operand fields and the field specification of a word (30_encoding.md R72 to R79), and
words written out. -/

namespace Sys2Proof.Machine

/-- The operand of a decoded instruction is read off the word. -/
theorem decode_operand {w : Word} {i : Instr} (h : decode w = .ok i) :
    ∃ x, indexOf w.b2 = .ok x ∧ i.operand = ⟨w.sign, addressField w, x⟩ := by
  obtain ⟨x, hx, hd⟩ := decode_ok h
  exact ⟨x, hx, (dispatch_ok hd).2⟩

theorem selectorNumber_of_indexOf {b : Byte} {x : Option IndexReg} (h : indexOf b = .ok x) :
    b.toNat = selectorNumber x := by
  rw [← indexByte_of_indexOf h]
  rcases x with _ | x
  · rfl
  · cases x <;> rfl

theorem addressField_toNat (w : Word) : (addressField w).toNat = wordAddress w := by
  have h1 := w.b1.isLt
  rw [addressField, BitVec.toNat_append, ← Nat.shiftLeft_add_eq_or_of_lt h1, Nat.shiftLeft_eq]
  rfl

theorem indexOffset_some (s : State) (x : IndexReg) :
    s.indexOffset (some x) = lowTwoBytes (s.reg (indexReg x)) :=
  windowMag_lowTwoBytes _

/-- Settles O8: the operand is read off the word, and an address is the sum of two numbers of two bytes. -/
theorem resolvedAddressIsUnsignedSum : Obligations.ResolvedAddressIsUnsignedSum := by
  intro w i s h
  obtain ⟨x, hx, ho⟩ := decode_operand h
  have hle := effAddr_le s i.operand
  rw [ho] at hle ⊢
  refine ⟨selectorNumber_of_indexOf hx, rfl, addressField_toNat w, ?_, hle⟩
  rw [State.effAddr, addressField_toNat]
  rcases x with _ | x
  · rfl
  · rw [indexOffset_some]
    rfl

/-- The only valid sign-only window is F = 0 (R79). -/
theorem onlyZero_splitField_iff {b : Byte} (hv : (splitField b).valid = true) :
    onlyZero (splitField b) = true ↔ b = 0 := by
  constructor
  · intro hz
    have hr := onlyZero_iff.mp hz
    have hb := fieldByte_toNat hv
    obtain ⟨hle, _⟩ := valid_iff.mp hv
    rw [fieldByte_splitField] at hb
    have h0 : b.toNat = 0 := by omega
    exact BitVec.eq_of_toNat_eq h0
  · rintro rfl
    rfl

/-- Settles O9: a valid window has `l <= r <= 4` (`window_bounds`), and the rest is arithmetic on L and R. -/
theorem fieldSpecificationForms : Obligations.FieldSpecificationForms := by
  intro b
  refine ⟨rfl, rfl, ?_, fun hv => ?_⟩
  · rw [valid_iff]
    omega
  · obtain ⟨hle, h4, hw, _⟩ := window_bounds hv
    exact ⟨zeroIncluded_iff, onlyZero_iff, onlyZero_splitField_iff hv, rfl, rfl, hle, h4, by omega⟩

/-- Settles O3: the decoder computes. -/
theorem writtenOutWordsDecode : Obligations.WrittenOutWordsDecode := by
  unfold Obligations.WrittenOutWordsDecode
  decide

end Sys2Proof.Machine
end

section
/-! PROOFS. The field unit and the comparator (40_datapath.md R100 to R104, R109): the value of a window as
a sum over its bytes, what the copies put into each byte, and the order of windows. -/

namespace Sys2Proof.Machine

/-! ### The value of a window (R100) -/

/-- The magnitude of a window as the big-endian sum of its bytes, added from the first byte. -/
theorem windowMag_eq_sum (w : Word) (l n : Nat) :
    windowMag w l n = ∑ k ∈ Finset.Ico l (l + n), (w.byte k).toNat * 256 ^ (l + n - 1 - k) := by
  induction n generalizing l with
  | zero => simp
  | succ n ih =>
    rw [windowMag_head, ih, Finset.sum_eq_sum_Ico_succ_bot (a := l) (by omega),
      show l + 1 + n = l + (n + 1) by omega, show l + (n + 1) - 1 - l = n by omega]

/-- The same sum over the bytes `l .. r` of a valid field specification. -/
theorem windowMag_eq_sum_of_valid (w : Word) {f : FieldSpec} (hv : f.valid = true) :
    windowMag w (lo f) (width f) =
      ∑ k ∈ Finset.Icc (lo f) (hi f), (w.byte k).toNat * 256 ^ (hi f - k) := by
  obtain ⟨_, _, hw, _⟩ := window_bounds hv
  rw [windowMag_eq_sum, hw, Nat.add_sub_cancel]
  rfl

/-- Only a sign-only window has no magnitude. -/
theorem fieldValue_eq (w : Word) {f : FieldSpec} (hr : f.right ≠ 0) :
    fieldValue w f = if f.left = 0 ∧ w.sign = .minus then
      -(windowMag w (lo f) (width f) : Int) else windowMag w (lo f) (width f) := by
  simp [fieldValue, onlyZero, zeroIncluded, hr]

/-- Without position 0 the value is the magnitude of the window. -/
theorem fieldValue_of_left_ne_zero (w : Word) {f : FieldSpec} (hl : f.left ≠ 0) (hr : f.right ≠ 0) :
    fieldValue w f = windowMag w (lo f) (width f) := by
  rw [fieldValue_eq w hr, if_neg fun h => hl h.1]

/-- Settles O11, through the sum of the window (`windowMag_eq_sum_of_valid`). -/
theorem fieldValueIsWindowSum : Obligations.FieldValueIsWindowSum := by
  intro w f hv
  refine ⟨fun hr => if_pos (onlyZero_iff.mpr hr), fun hr => ?_⟩
  rw [← windowMag_eq_sum_of_valid w hv]
  exact ⟨windowMag_lt w _ _, fieldValue_eq w hr⟩

/-! ### The copies, byte by byte (R102 to R104) -/

section
variable {src dst : Word} {f : FieldSpec} {k : Nat}

theorem copyWordFields_sign :
    (copyWordFields src dst f).sign = if f.left = 0 then src.sign else dst.sign := by
  simp [copyWordFields, zeroIncluded]

theorem storeOperation_sign :
    (storeOperation src dst f).sign = if f.left = 0 then src.sign else dst.sign := by
  simp [storeOperation, zeroIncluded]

theorem copyWordFields_byte_inside (hr : f.right ≠ 0) (hl : lo f ≤ k) (hh : k ≤ hi f)
    (hk : k < 5) : (copyWordFields src dst f).byte k = src.byte k := by
  rw [copyWordFields, ofBytes_byte _ _ hk, if_pos (by simp [onlyZero, inWindow, *])]

theorem storeOperation_byte_inside (hr : f.right ≠ 0) (hl : lo f ≤ k) (hh : k ≤ hi f)
    (hk : k < 5) :
    (storeOperation src dst f).byte k = src.byte (5 - width f + (k - lo f)) := by
  rw [storeOperation, ofBytes_byte _ _ hk, if_pos (by simp [onlyZero, inWindow, *])]

/-- A sign-only window moves no byte, and no window moves a byte outside it. -/
theorem not_moved_outside (h : f.right = 0 ∨ k < lo f ∨ hi f < k) :
    ¬ (!onlyZero f && inWindow f k) = true := by
  simp only [onlyZero, inWindow, Bool.and_eq_true, Bool.not_eq_true', decide_eq_true_eq,
    decide_eq_false_iff_not]
  omega

theorem copyWordFields_byte_outside (h : f.right = 0 ∨ k < lo f ∨ hi f < k) (hk : k < 5) :
    (copyWordFields src dst f).byte k = dst.byte k := by
  rw [copyWordFields, ofBytes_byte _ _ hk, if_neg (not_moved_outside h)]

theorem storeOperation_byte_outside (h : f.right = 0 ∨ k < lo f ∨ hi f < k) (hk : k < 5) :
    (storeOperation src dst f).byte k = dst.byte k := by
  rw [storeOperation, ofBytes_byte _ _ hk, if_neg (not_moved_outside h)]

end

/-- Settles O12, from the bytes inside and outside the window. -/
theorem copyAndStoreMoveWindows : Obligations.CopyAndStoreMoveWindows := by
  intro src dst f hv
  obtain ⟨_, h4, hw, _⟩ := window_bounds hv
  refine ⟨rfl, fun k _ => negate_byte src k, copyWordFields_sign, storeOperation_sign,
    fun hr k hk => ⟨copyWordFields_byte_outside (.inl hr) hk,
      storeOperation_byte_outside (.inl hr) hk⟩,
    fun hr => ⟨fun k hl hh => copyWordFields_byte_inside hr hl hh (by omega), fun j hj => ?_,
      fun k hk ho => ⟨copyWordFields_byte_outside (.inr ho) hk,
        storeOperation_byte_outside (.inr ho) hk⟩⟩⟩
  rw [storeOperation_byte_inside hr (by omega) (by omega) (by omega), Nat.add_sub_cancel_left]

/-- The field check of an index-register load: the six windows that touch neither the sign nor byte 3 or 4
are those of bytes 0 to 2. -/
theorem touchesIndexBytes_iff {f : FieldSpec} (hv : f.valid = true) :
    (zeroIncluded f || (!onlyZero f && decide (3 ≤ hi f))) = true ↔
      8 * f.left + f.right ∉ [9, 10, 11, 18, 19, 27] := by
  obtain ⟨hle, h5⟩ := valid_iff.mp hv
  have hhi : hi f = max f.right 1 - 1 := rfl
  simp only [zeroIncluded, onlyZero, Bool.or_eq_true, Bool.and_eq_true, Bool.not_eq_true',
    decide_eq_true_eq, decide_eq_false_iff_not, List.mem_cons, List.not_mem_nil, or_false]
  omega

/-- Settles O13: the check holds for every window but the six. -/
theorem indexLoadFieldCheck : Obligations.IndexLoadFieldCheck := by
  intro src dst f hv
  exact ⟨fun h => if_neg fun hc => (touchesIndexBytes_iff hv).mp hc h,
    fun h => if_pos ((touchesIndexBytes_iff hv).mpr h)⟩

/-! ### The comparator (R109) -/

/-- Settles O18: the bytes compare as the magnitudes do (`compareBytes_eq`). -/
theorem comparatorOrdersWindows : Obligations.ComparatorOrdersWindows := by
  intro w1 w2 f _
  refine ⟨fun hr => if_pos (onlyZero_iff.mpr hr), fun hr hl hs => ?_, fun hr hs => ?_⟩
  · rw [compareWords, if_neg (onlyZero_iff.not.mpr hr),
      if_pos (by simp [zeroIncluded, hl, hs])]
    cases w1.sign <;> rfl
  · have hn : ¬ (zeroIncluded f && decide (w1.sign ≠ w2.sign)) = true := by
      simpa [zeroIncluded, imp_iff_not_or] using hs
    rw [compareWords, if_neg (onlyZero_iff.not.mpr hr), if_neg hn, compareBytes_eq]

end Sys2Proof.Machine
end

section
/-! PROOFS. The arithmetic unit (40_datapath.md R105 to R108): each unit by one lemma that says what it
answers under a window that is not sign-only. -/

namespace Sys2Proof.Machine

/-! ### The sign of a signed result (R105, R107) -/

theorem signOf_of_pos {n : Int} (h : 0 < n) : signOf n = .plus := if_pos h

theorem signOf_of_neg {n : Int} (h : n < 0) : signOf n = .minus := by
  rw [signOf, if_neg (by omega), if_pos h]

@[simp] theorem signOf_zero : signOf 0 = Config.zeroResultSign := rfl

/-- A sign that follows `n` only with position 0, in the four clauses that R105 and R107 write out. -/
theorem resultSign_clauses {left : Nat} {s other : Sign} {n : Int}
    (h : s = if left = 0 then signOf n else other) :
    (left ≠ 0 → s = other) ∧ (left = 0 → 0 < n → s = .plus) ∧ (left = 0 → n < 0 → s = .minus) ∧
      (left = 0 → n = 0 → s = Config.zeroResultSign) := by
  subst h
  refine ⟨fun hl => if_neg hl, fun hl hn => ?_, fun hl hn => ?_, fun hl hn => ?_⟩ <;> rw [if_pos hl]
  · exact signOf_of_pos hn
  · exact signOf_of_neg hn
  · rw [hn, signOf_zero]

/-! ### Adder (R105, R106) -/

/-- What the adder answers: the window of the result is the sum's magnitude cut to the window. -/
theorem addWords_ok (w1 w2 : Word) {f : FieldSpec} (hv : f.valid = true) (hr : f.right ≠ 0)
    {sum : Int} (hsum : fieldValue w1 f + fieldValue w2 f = sum) :
    ∃ res, addWords w1 w2 f = .ok (res, decide (256 ^ width f ≤ sum.natAbs)) ∧
      windowMag res (lo f) (width f) = sum.natAbs % 256 ^ width f ∧
      (∀ k < 5, k < lo f ∨ hi f < k → res.byte k = w1.byte k) ∧
      res.sign = if f.left = 0 then signOf sum else w1.sign := by
  obtain ⟨_, h4, hw, _⟩ := window_bounds hv
  rw [addWords, if_neg (onlyZero_iff.not.mpr hr), hsum]
  refine ⟨_, rfl, ?_, fun k hk ho => ?_, by simp [zeroIncluded]⟩
  · refine (windowMag_digits (m := sum.natAbs % 256 ^ width f) fun k hl hk => ?_).trans
      (Nat.mod_mod _ _)
    rw [ofBytes_byte _ _ (by omega), if_pos (inWindow_iff.mpr ⟨hl, by omega⟩), BitVec.toNat_ofNat,
      hw, Nat.add_sub_cancel]
  · rw [ofBytes_byte _ _ hk, if_neg (by rw [inWindow_iff]; omega)]

/-- Settles O14, from what the adder answers. -/
theorem adderIsExactModuloWindow : Obligations.AdderIsExactModuloWindow := by
  intro w1 w2 f hv
  refine ⟨fun hr => if_pos (onlyZero_iff.mpr hr), fun hr => ?_⟩
  obtain ⟨res, hadd, hwin, hout, hsign⟩ := addWords_ok w1 w2 hv hr rfl
  exact ⟨res, hadd, hwin, hout, resultSign_clauses hsign⟩

/-- The adder sees the second word through its field value alone. -/
theorem addWords_congr_right {w1 w2 w3 : Word} {f : FieldSpec}
    (h : fieldValue w2 f = fieldValue w3 f) : addWords w1 w2 f = addWords w1 w3 f := by
  unfold addWords
  rw [h]

/-- Settles O15: without position 0 neither operand's sign is seen, and the sum of two numbers below
`256^n` loses at most one `256^n`. -/
theorem unsignedWindowSubtractionAdds : Obligations.UnsignedWindowSubtractionAdds := by
  intro w1 w2 f hv hl
  have hr : f.right ≠ 0 := by
    have := valid_iff.mp hv
    omega
  have hfv := fun w => fieldValue_of_left_ne_zero w hl hr
  have hneg : fieldValue (negate w2) f = fieldValue w2 f := by
    rw [hfv, hfv, windowMag_negate]
  obtain ⟨res, hadd, hwin, _⟩ := addWords_ok w1 w2 hv hr
    (sum := (windowMag w1 (lo f) (width f) + windowMag w2 (lo f) (width f) : Nat))
    (by rw [hfv, hfv, Nat.cast_add])
  refine ⟨res, _, (addWords_congr_right hneg).trans hadd, hadd, ?_⟩
  have h1 := windowMag_lt w1 (lo f) (width f)
  have h2 := windowMag_lt w2 (lo f) (width f)
  rw [Int.natAbs_natCast] at hwin ⊢
  rw [hwin]
  by_cases hov : 256 ^ width f ≤ windowMag w1 (lo f) (width f) + windowMag w2 (lo f) (width f)
  · rw [if_pos (decide_eq_true hov), Nat.mod_eq_sub_mod hov, Nat.mod_eq_of_lt (by omega)]
    omega
  · rw [if_neg (by simpa using hov), Nat.mod_eq_of_lt (by omega), Nat.add_zero]

/-! ### Multiplier (R107) -/

/-- What the multiplier answers: the two halves of the exact product. -/
theorem multiplyWords_ok (w1 w2 : Word) {f : FieldSpec} (hr : f.right ≠ 0) {p : Int}
    (hp : val w1 * fieldValue w2 f = p) :
    ∃ s, multiplyWords w1 w2 f =
        .ok (mkword s (p.natAbs / 256 ^ 5), mkword s (p.natAbs % 256 ^ 5)) ∧
      s = if f.left = 0 then signOf p else Config.defaultSign := by
  rw [multiplyWords, if_neg (onlyZero_iff.not.mpr hr), hp]
  exact ⟨_, rfl, by simp [zeroIncluded]⟩

/-- Settles O16: the product is below `256^10` (`mul_natAbs_lt`), so each half fits a word. -/
theorem multiplierIsExact : Obligations.MultiplierIsExact := by
  intro w1 w2 f hv
  refine ⟨fun hr => if_pos (onlyZero_iff.mpr hr), fun hr => ?_⟩
  intro p
  have hlt : p.natAbs < 256 ^ 10 := mul_natAbs_lt hv hr
  obtain ⟨s, hmul, hsign⟩ := multiplyWords_ok w1 w2 hr rfl
  refine ⟨_, _, hmul, ?_, rfl, resultSign_clauses hsign⟩
  rw [mag_mkword_of_lt _ (by omega), mag_mkword_of_lt _ (by omega)]
  exact Nat.div_add_mod' _ _

/-! ### Divider (R108) -/

/-- The quotient of a ten-byte dividend is too wide for a word exactly when the upper half reaches the
divisor. -/
theorem wide_quotient_iff {h l v : Nat} (hl : l < 256 ^ 5) (hv : v ≠ 0) :
    256 ^ 5 ≤ (h * 256 ^ 5 + l) / v ↔ v ≤ h := by
  rw [Nat.le_div_iff_mul_le (by omega)]
  omega

section
variable {h l d : Word} {f : FieldSpec} {v : Nat} (hr : f.right ≠ 0)
include hr

theorem divideWords_by_zero (hv : (fieldValue d f).natAbs = 0) :
    divideWords h l d f =
      .ok (mkword Config.defaultSign 0, mkword Config.defaultSign 0, true) := by
  rw [divideWords, if_neg (onlyZero_iff.not.mpr hr)]
  exact if_pos hv

theorem divideWords_overflow (hv : (fieldValue d f).natAbs = v) (h0 : v ≠ 0) (hle : v ≤ mag h) :
    divideWords h l d f = .error ⟨.quotientOverflow, (mag h * 256 ^ 5 + mag l) / v⟩ := by
  rw [divideWords, if_neg (onlyZero_iff.not.mpr hr), hv]
  dsimp only
  rw [if_neg h0, if_pos ((wide_quotient_iff (mag_lt l) h0).mpr hle)]

theorem divideWords_ok (hv : (fieldValue d f).natAbs = v) (hlt : mag h < v) :
    divideWords h l d f =
      .ok (mkword (if f.left = 0 then (if h.sign = d.sign then .plus else .minus)
          else Config.defaultSign) ((mag h * 256 ^ 5 + mag l) / v),
        mkword h.sign ((mag h * 256 ^ 5 + mag l) % v), false) := by
  have h0 : v ≠ 0 := by omega
  rw [divideWords, if_neg (onlyZero_iff.not.mpr hr), hv]
  dsimp only
  rw [if_neg h0, if_neg ((wide_quotient_iff (mag_lt l) h0).not.mpr (by omega))]
  simp [zeroIncluded]

end

/-- The divider takes no sign from the lower half. -/
theorem divideWords_negate_lower (h l d : Word) (f : FieldSpec) :
    divideWords h (negate l) d f = divideWords h l d f := by
  unfold divideWords
  rw [mag_negate]

/-- A quotient that fits a word, and a remainder below a divisor that fits, keep their magnitudes. -/
theorem mkword_div_mod (s s' : Sign) {m v : Nat} (hq : m / v < 256 ^ 5) (h0 : 0 < v)
    (hv : v < 256 ^ 5) :
    mag (mkword s (m / v)) * v + mag (mkword s' (m % v)) = m ∧ mag (mkword s' (m % v)) < v := by
  have hrem : m % v < v := Nat.mod_lt _ h0
  rw [mag_mkword_of_lt _ hq, mag_mkword_of_lt _ (hrem.trans hv)]
  exact ⟨Nat.div_add_mod' _ _, hrem⟩

/-- Settles O17, case by case of what the divider answers. -/
theorem dividerIsExact : Obligations.DividerIsExact := by
  intro h l d f hval
  refine ⟨fun hr => if_pos (onlyZero_iff.mpr hr), fun hr => ?_, divideWords_negate_lower h l d f⟩
  have hv : (fieldValue d f).natAbs < 256 ^ 5 := fieldValue_natAbs_lt hval hr
  generalize hfv : (fieldValue d f).natAbs = v at hv ⊢
  dsimp only
  refine ⟨fun h0 => divideWords_by_zero hr (hfv.trans h0), fun h0 hle =>
    ⟨(wide_quotient_iff (mag_lt l) h0).mpr hle, divideWords_overflow hr hfv h0 hle⟩,
    fun h0 hlt => ?_⟩
  have hq : (mag h * 256 ^ 5 + mag l) / v < 256 ^ 5 :=
    Nat.lt_of_not_le ((wide_quotient_iff (mag_lt l) h0).not.mpr hlt.not_ge)
  obtain ⟨hexact, hrem⟩ := mkword_div_mod _ _ hq (Nat.pos_of_ne_zero h0) hv
  exact ⟨_, _, divideWords_ok hr hfv hlt, hexact, hrem, mkword_sign _ _, mkword_sign _ _⟩

end Sys2Proof.Machine
end

section
/-! PROOFS. The shifter (40_datapath.md R110 to R113). A shift by whole bytes is a shift of the digits in
base 256; the single-word and the double-word shifts use the same facts about digits. -/

namespace Sys2Proof.Machine

/-! ### Digits in base 256 -/

theorem digit_mul_pow (p n j : Nat) :
    p * 256 ^ n / 256 ^ j % 256 = if n ≤ j then p / 256 ^ (j - n) % 256 else 0 := by
  split_ifs with h
  · obtain ⟨i, rfl⟩ := Nat.exists_eq_add_of_le h
    rw [Nat.pow_add, Nat.mul_comm p, Nat.mul_div_mul_left _ _ (by positivity),
      Nat.add_sub_cancel_left]
  · obtain ⟨i, rfl⟩ := Nat.exists_eq_add_of_lt (Nat.lt_of_not_le h)
    rw [show p * 256 ^ (j + i + 1) = 256 ^ j * (p * 256 ^ i * 256) by ring,
      Nat.mul_div_cancel_left _ (by positivity), Nat.mul_mod_left]

theorem digit_div_pow (p n j : Nat) : p / 256 ^ n / 256 ^ j % 256 = p / 256 ^ (n + j) % 256 := by
  rw [Nat.div_div_eq_div_mul, ← Nat.pow_add]

/-- Cutting a number to its `N` lowest digits keeps each of them. -/
theorem digit_mod_pow (p : Nat) {N j : Nat} (hj : j < N) :
    p % 256 ^ N / 256 ^ j % 256 = p / 256 ^ j % 256 := by
  rw [← Nat.mod_mul_right_div_self, ← Nat.mod_mul_right_div_self, ← Nat.pow_succ,
    Nat.mod_mod_of_dvd _ (Nat.pow_dvd_pow 256 hj)]

theorem digit_eq_zero {p N j : Nat} (hp : p < 256 ^ N) (hj : N ≤ j) : p / 256 ^ j % 256 = 0 := by
  rw [Nat.div_eq_of_lt (hp.trans_le (Nat.pow_le_pow_right (by omega) hj)), Nat.zero_mod]

/-! ### Single words (R110, R111) -/

section
variable (w : Word) (n : Nat) {k : Nat}

theorem shiftLeft_byte (hk : k < 5) :
    (shiftLeft w n false).byte k = if k + n ≤ 4 then w.byte (k + n) else 0 :=
  ofBytes_byte _ _ hk

theorem shiftRight_byte (hk : k < 5) :
    (shiftRight w n false).byte k = if n ≤ k then w.byte (k - n) else 0 :=
  ofBytes_byte _ _ hk

theorem rotateLeft_byte (hk : k < 5) : (shiftLeft w n true).byte k = w.byte ((k + n) % 5) :=
  ofBytes_byte _ _ hk

theorem rotateRight_byte (hk : k < 5) :
    (shiftRight w n true).byte k = w.byte ((k + (5 - n % 5)) % 5) :=
  ofBytes_byte _ _ hk

theorem mag_shiftLeft : mag (shiftLeft w n false) = mag w * 256 ^ n % 256 ^ 5 := by
  refine windowMag_digits fun k _ hk => ?_
  rw [shiftLeft_byte w n (by omega), digit_mul_pow]
  by_cases h : k + n ≤ 4
  · rw [if_pos h, if_pos (by omega), byte_eq_digit w (by omega)]
    congr 3
    omega
  · rw [if_neg h, if_neg (by omega)]
    rfl

theorem mag_shiftRight : mag (shiftRight w n false) = mag w / 256 ^ n := by
  have hlt : mag w / 256 ^ n < 256 ^ 5 := (Nat.div_le_self _ _).trans_lt (mag_lt w)
  rw [← Nat.mod_eq_of_lt hlt]
  refine windowMag_digits fun k _ hk => ?_
  rw [shiftRight_byte w n (by omega), digit_div_pow]
  by_cases h : n ≤ k
  · rw [if_pos h, byte_eq_digit w (by omega)]
    congr 3
    omega
  · rw [if_neg h, digit_eq_zero (mag_lt w) (by omega)]
    rfl

/-- A right rotation undoes a left rotation by the same count. -/
theorem rotateRight_rotateLeft : shiftRight (shiftLeft w n true) n true = w :=
  word_ext rfl fun k hk => by
    rw [rotateRight_byte _ n hk, rotateLeft_byte w n (by omega)]
    congr 1
    omega

theorem rotateLeft_mod_five : shiftLeft w n true = shiftLeft w (n % 5) true :=
  word_ext rfl fun k hk => by
    rw [rotateLeft_byte w n hk, rotateLeft_byte w _ hk, Nat.add_mod_mod]

end

/-- Settles O19, from the digits (`mag_shiftLeft`, `mag_shiftRight`) and indices modulo 5. -/
theorem singleShiftsScaleAndRotate : Obligations.SingleShiftsScaleAndRotate := by
  intro w n
  refine ⟨fun _ => ⟨rfl, rfl⟩, mag_shiftLeft w n, mag_shiftRight w n,
    fun _ hk => rotateLeft_byte w n hk, fun k hk => ?_, rotateRight_rotateLeft w n,
    rotateLeft_mod_five w n⟩
  rw [rotateRight_byte w n (by omega)]
  congr 1
  omega

/-! ### Pairs of words (R112, R113) -/

/-- The ten bytes of a pair as one number. -/
def pairMag (h l : Word) : Nat := mag h * 256 ^ 5 + mag l

theorem pairMag_lt (h l : Word) : pairMag h l < 256 ^ 10 := by
  have hh := mag_lt h
  have hl := mag_lt l
  unfold pairMag
  omega

theorem pairMag_div (h l : Word) : pairMag h l / 256 ^ 5 = mag h := by
  have hl := mag_lt l
  unfold pairMag
  omega

theorem pairMag_mod (h l : Word) : pairMag h l % 256 ^ 5 = mag l := by
  have hl := mag_lt l
  unfold pairMag
  omega

/-- Byte `k` of a pair is the digit `9 - k` of its number. -/
theorem pairByte_eq_digit (h l : Word) {k : Nat} (hk : k < 10) :
    (pairByte h l k).toNat = pairMag h l / 256 ^ (9 - k) % 256 := by
  unfold pairByte
  split
  · rw [byte_eq_digit h (by omega), ← pairMag_div h l, digit_div_pow,
      show 5 + (4 - k) = 9 - k by omega]
  · rw [byte_eq_digit l (by omega), ← pairMag_mod h l, digit_mod_pow _ (by omega),
      show 4 - (k - 5) = 9 - k by omega]

/-- Two words whose ten bytes are the lowest ten digits of `m`, the most significant first, hold `m`
modulo `256^10`. -/
theorem pairMag_of_digits {s s' : Sign} {t : Nat → Byte} {m : Nat}
    (ht : ∀ k < 10, (t k).toNat = m / 256 ^ (9 - k) % 256) :
    pairMag (Word.ofBytes s t) (Word.ofBytes s' fun k => t (k + 5)) = m % 256 ^ 10 := by
  have hupper : mag (Word.ofBytes s t) = m / 256 ^ 5 % 256 ^ 5 :=
    windowMag_digits fun k _ hk => by
      rw [ofBytes_byte _ _ (by omega), ht k (by omega), digit_div_pow]
      congr 3
      omega
  have hlower : mag (Word.ofBytes s' fun k => t (k + 5)) = m % 256 ^ 5 :=
    windowMag_digits fun k _ hk => by
      rw [ofBytes_byte _ _ (by omega), ht (k + 5) (by omega)]
      congr 3
      omega
  rw [pairMag, hupper, hlower]
  omega

theorem pairMag_doubleShiftLeft (h l : Word) (n : Nat) :
    pairMag (doubleShiftLeft h l n).1 (doubleShiftLeft h l n).2 =
      pairMag h l * 256 ^ n % 256 ^ 10 := by
  refine pairMag_of_digits (t := fun k => if k + n ≤ 9 then pairByte h l (k + n) else 0)
    fun k hk => ?_
  rw [digit_mul_pow]
  by_cases hn : k + n ≤ 9
  · rw [if_pos hn, if_pos (by omega), pairByte_eq_digit h l (by omega), Nat.sub_sub]
  · rw [if_neg hn, if_neg (by omega)]
    rfl

theorem pairMag_doubleShiftRight (h l : Word) (n : Nat) :
    pairMag (doubleShiftRight h l n).1 (doubleShiftRight h l n).2 = pairMag h l / 256 ^ n := by
  have hlt : pairMag h l / 256 ^ n < 256 ^ 10 := (Nat.div_le_self _ _).trans_lt (pairMag_lt h l)
  rw [← Nat.mod_eq_of_lt hlt]
  refine pairMag_of_digits (t := fun k => if n ≤ k then pairByte h l (k - n) else 0)
    fun k hk => ?_
  rw [digit_div_pow]
  by_cases hn : n ≤ k
  · rw [if_pos hn, pairByte_eq_digit h l (by omega)]
    congr 3
    omega
  · rw [if_neg hn, digit_eq_zero (pairMag_lt h l) (by omega)]
    rfl

/-- Settles O20, from the ten digits of the pair. -/
theorem doubleShiftsScaleThePair : Obligations.DoubleShiftsScaleThePair :=
  fun h l n => ⟨rfl, rfl, pairMag_doubleShiftLeft h l n, rfl, rfl, pairMag_doubleShiftRight h l n⟩

end Sys2Proof.Machine
end

section
/-! PROOFS. ADD, SUB, MUL and DIV (41_arithmetic.md R140 to R143): the words that decode to a FIELD-class
instruction, how an instruction that addresses memory ends, and what each arithmetic unit's answer makes
of the state. The units' answers themselves are the theorems of 40_datapath.md above. -/

namespace Sys2Proof.Machine

/-! ### The words of a FIELD-class instruction (30_encoding.md R70 to R80) -/

theorem indexOf_of_selectorNumber {b : Byte} {x : Option IndexReg} (h : b.toNat = selectorNumber x) :
    indexOf b = .ok x := by
  have hx : (indexByte x).toNat = selectorNumber x := by
    rcases x with _ | x
    · rfl
    · cases x <;> rfl
  rw [BitVec.eq_of_toNat_eq (h.trans hx.symm), indexOf_indexByte]

theorem addressField_eq_ofNat (w : Word) : addressField w = BitVec.ofNat 16 (wordAddress w) := by
  rw [← addressField_toNat, BitVec.ofNat_toNat, BitVec.setWidth_eq]

/-- An opcode that dispatches to the field check is coded as the FIELD class is. -/
theorem fieldCoded_of_dispatch {k : Operand → FieldSpec → Instr} {c : Byte}
    (h : ∀ a f, dispatch a f c = fieldInstr f (k a)) : FieldCoded k c.toNat := by
  intro w x hx hc hf
  rw [decode_of_indexOf (indexOf_of_selectorNumber hx), BitVec.eq_of_toNat_eq hc, h,
    ← addressField_eq_ofNat]
  exact if_pos (splitField_valid_iff.mpr hf)

/-! ### How an instruction that addresses memory ends (20_memory.md R52, 60_exceptions.md R272) -/

section
variable {s t : State} {m : Nat} {k : Word → Except Raised State}

theorem withMemoryWord_outOfRange (h : 3999 < m) :
    s.withMemoryWord m k = .next (s.faultedWith .addressOutOfRange m) :=
  withMemoryWord_of_ge h k

theorem withMemoryWord_of_ok (hm : m ≤ 3999) (hk : k (s.mem.read m) = .ok t) :
    s.withMemoryWord m k = .next t := by
  rw [withMemoryWord_of_lt (Nat.lt_succ_of_le hm), hk]
  rfl

theorem withMemoryWord_of_error {c : FaultCode} {n : Nat} (hm : m ≤ 3999)
    (hk : k (s.mem.read m) = .error ⟨c, n⟩) :
    s.withMemoryWord m k = .next (s.faultedWith c n) := by
  rw [withMemoryWord_of_lt (Nat.lt_succ_of_le hm), hk]
  rfl

end

/-! ### The state that each unit's answer makes -/

section
variable {s : State} {w u l : Word} {b : Bool} {f : FieldSpec} {e : Raised}

theorem addInto_of_ok {r : Reg} (h : addWords (s.reg r) w f = .ok (u, b)) :
    s.addInto r w f = .ok ((s.setReg r u).setOv b) := by
  rw [State.addInto, h]

theorem addInto_of_error {r : Reg} (h : addWords (s.reg r) w f = .error e) :
    s.addInto r w f = .error e := by
  rw [State.addInto, h]

theorem multiplyInto_of_ok (h : multiplyWords s.rA w f = .ok (u, l)) :
    s.multiplyInto w f = .ok { s with rA := u, rX := l } := by
  rw [State.multiplyInto, reg_A, h]
  rfl

theorem multiplyInto_of_error (h : multiplyWords s.rA w f = .error e) :
    s.multiplyInto w f = .error e := by
  rw [State.multiplyInto, reg_A, h]

theorem divideInto_of_ok (h : divideWords s.rA s.rX w f = .ok (u, l, b)) :
    s.divideInto w f = .ok { s with rA := u, rX := l, ov := b } := by
  rw [State.divideInto, reg_A, reg_X, h]
  rfl

theorem divideInto_of_error (h : divideWords s.rA s.rX w f = .error e) :
    s.divideInto w f = .error e := by
  rw [State.divideInto, reg_A, reg_X, h]

end

/-! ### The sign-only window (60_exceptions.md R270, code 3) -/

section
variable {f : FieldSpec} (hv : f.valid = true) (hr : f.right = 0) (w1 w2 w3 : Word)
include hv hr

/-- The only valid sign-only window is F = 0. -/
theorem domainFault_eq : domainFault f = ⟨.arithmeticDomainFault, 0⟩ := by
  obtain ⟨hle, _⟩ := valid_iff.mp hv
  have hF : fieldNumber f = 0 := by
    unfold fieldNumber
    omega
  rw [domainFault, hF]

theorem addWords_domainFault : addWords w1 w2 f = .error ⟨.arithmeticDomainFault, 0⟩ := by
  rw [← domainFault_eq hv hr]
  exact if_pos (onlyZero_iff.mpr hr)

theorem multiplyWords_domainFault :
    multiplyWords w1 w2 f = .error ⟨.arithmeticDomainFault, 0⟩ := by
  rw [← domainFault_eq hv hr]
  exact if_pos (onlyZero_iff.mpr hr)

theorem divideWords_domainFault :
    divideWords w1 w2 w3 f = .error ⟨.arithmeticDomainFault, 0⟩ := by
  rw [← domainFault_eq hv hr]
  exact if_pos (onlyZero_iff.mpr hr)

end

/-! ### What each instruction does (R140 to R143) -/

/-- Settles O21: outside the two faults both instructions end with the adder's answer, for the word at M
or for its negation. -/
theorem addAndSubtract : Obligations.AddAndSubtract := by
  refine ⟨fieldCoded_of_dispatch (c := 1) fun _ _ => rfl,
    fieldCoded_of_dispatch (c := 2) fun _ _ => rfl,
    fun a f s hv => ⟨fun hm i hi => ?_, fun hm hr i hi => ?_, fun hm hr => ?_⟩⟩
  · fin_cases hi <;> exact withMemoryWord_outOfRange hm
  · fin_cases hi <;>
      exact withMemoryWord_of_error hm (addInto_of_error (addWords_domainFault hv hr _ _))
  · obtain ⟨sum, hadd, _⟩ := addWords_ok s.rA (s.mem.read (s.effAddr a)) hv hr rfl
    obtain ⟨diff, hsub, _⟩ := addWords_ok s.rA (negate (s.mem.read (s.effAddr a))) hv hr rfl
    exact ⟨⟨sum, _, hadd, withMemoryWord_of_ok hm (addInto_of_ok hadd)⟩,
      ⟨diff, _, hsub, withMemoryWord_of_ok hm (addInto_of_ok hsub)⟩⟩

/-- With position 0, negating a word negates its field value. -/
theorem fieldValue_negate (w : Word) {f : FieldSpec} (hl : f.left = 0) (hr : f.right ≠ 0) :
    fieldValue (negate w) f = -fieldValue w f := by
  rw [fieldValue_eq _ hr, fieldValue_eq _ hr, windowMag_negate, negate_sign]
  cases w.sign <;> simp [Sign.flip, hl]

/-- Settles O22: the multiplier's answer for the negated word, whose product with rA has the sign opposite
to the textbook product. -/
theorem multiplyNegatesItsOperand : Obligations.MultiplyNegatesItsOperand := by
  refine ⟨fieldCoded_of_dispatch (c := 3) fun _ _ => rfl,
    fun a f s hv => ⟨fun hm => withMemoryWord_outOfRange hm, fun hm hr =>
      withMemoryWord_of_error hm (multiplyInto_of_error (multiplyWords_domainFault hv hr _ _)),
      fun hm hr => ?_⟩⟩
  obtain ⟨u, l, hmul, _, hsame, _, _, hminus, _⟩ :=
    (multiplierIsExact s.rA (negate (s.mem.read (s.effAddr a))) f hv).2 hr
  refine ⟨u, l, hmul, withMemoryWord_of_ok hm (multiplyInto_of_ok hmul), fun hl hpos => ?_⟩
  have hneg : val s.rA * fieldValue (negate (s.mem.read (s.effAddr a))) f < 0 := by
    rw [fieldValue_negate _ hl hr, Int.mul_neg]
    exact Int.neg_neg_of_pos hpos
  have hu := hminus hl hneg
  exact ⟨hu, hsame ▸ hu⟩

/-- Settles O23, case by case of what the divider answers. -/
theorem divideGivesQuotientAndRemainder : Obligations.DivideGivesQuotientAndRemainder := by
  refine ⟨fieldCoded_of_dispatch (c := 4) fun _ _ => rfl, fun a f s hv => ?_⟩
  intro d v dividend qs
  refine ⟨fun hm => withMemoryWord_outOfRange hm, fun hm hr =>
    withMemoryWord_of_error hm (divideInto_of_error (divideWords_domainFault hv hr _ _ _)),
    fun hm hr => ⟨fun h0 => ?_, fun h0 hle => ?_, fun _ hlt => ?_⟩⟩
  · exact withMemoryWord_of_ok hm (divideInto_of_ok (divideWords_by_zero hr h0))
  · exact withMemoryWord_of_error hm (divideInto_of_error (divideWords_overflow hr rfl h0 hle))
  · exact withMemoryWord_of_ok hm (divideInto_of_ok (divideWords_ok hr rfl hlt))

/-! ### The frame (10_state.md R24, R25, R28) -/

/-- From `s` to `t` the pc stays, and the status changes only by a fault that changes nothing else. -/
structure KeepsPlace (s t : State) : Prop where
  pc : t.pc = s.pc
  status : s.statusFrame t

section
variable {s t : State}

theorem keepsPlace_takeFault (e : Raised) : KeepsPlace s (s.takeFault e) :=
  ⟨rfl, .inr ⟨_, _, rfl⟩⟩

theorem keepsPlace_withMemoryWord {m : Nat} {k : Word → Except Raised State}
    (h : s.withMemoryWord m k = .next t) (hok : ∀ w u, k w = .ok u → KeepsPlace s u) :
    KeepsPlace s t := by
  rcases withMemoryWord_cases h with ⟨_, rfl⟩ | ⟨_, hk⟩ | ⟨_, e, _, rfl⟩
  · exact keepsPlace_takeFault _
  · exact hok _ t hk
  · exact keepsPlace_takeFault e

theorem keepsPlace_addInto {r : Reg} {w : Word} {f : FieldSpec} (h : s.addInto r w f = .ok t) :
    KeepsPlace s t := by
  rcases addInto_cases s r w f with ⟨_, h'⟩ | ⟨_, res, o, _, h'⟩ <;> rw [h'] at h <;> cases h
  exact ⟨by simp, .inl (by simp)⟩

theorem keepsPlace_multiplyInto {w : Word} {f : FieldSpec} (h : s.multiplyInto w f = .ok t) :
    KeepsPlace s t := by
  rcases multiplyInto_cases s w f with ⟨_, h'⟩ | ⟨_, u, l, _, h'⟩ <;> rw [h'] at h <;> cases h
  exact ⟨by simp, .inl (by simp)⟩

theorem keepsPlace_divideInto {w : Word} {f : FieldSpec} (h : s.divideInto w f = .ok t) :
    KeepsPlace s t := by
  rcases divideInto_cases s w f with ⟨e, _, h'⟩ | ⟨q, r, d, _, h'⟩ <;> rw [h'] at h <;> cases h
  exact ⟨by simp, .inl (by simp)⟩

theorem sameRegsBut_mono {rs rs' : List Reg} (hsub : rs ⊆ rs') (h : s.sameRegsBut rs t) :
    s.sameRegsBut rs' t :=
  fun r hr => h r fun hmem => hr (hsub hmem)

@[simp] theorem withPeriph_periph (p : Vector Byte Config.periphBytes) (s : State) :
    (s.withPeriph p).periph = p := rfl

/-- No instruction changes the peripheral area, since none reads it (`exec_withPeriph`). -/
theorem exec_periph {i : Instr} (h : exec i s = .next t) : t.periph = s.periph := by
  have hp : exec i s = .next (t.withPeriph s.periph) := exec_withPeriph (p := s.periph) h
  have ht : t = t.withPeriph s.periph := Host.Outcome.next.inj (h.symm.trans hp)
  rw [ht, withPeriph_periph]

/-- What an instruction leaves that writes at most rA, rX and OV and stays in place. -/
theorem exec_frame_of_writes_A_X {i : Instr} (h : exec i s = .next t) (hplace : KeepsPlace s t)
    (hregs : mayWrite i ⊆ [.A, .X]) (hcmp : mayWriteCmp i = false) (hstore : isStore i = false) :
    s.sameRegsBut [.A, .X] t ∧ t.cmp = s.cmp ∧ t.pc = s.pc ∧ s.sameMemoryBut [] t ∧
      t.periph = s.periph ∧ s.statusFrame t := by
  have hw := exec_writesOnly h
  have hmem := exec_mem_of_not_store hstore h
  exact ⟨sameRegsBut_mono hregs hw.regs, hw.cmp hcmp, hplace.pc, fun x _ => by rw [hmem],
    exec_periph h, hplace.status⟩

end

/-- Settles O38: the writers and the stores bound registers, flags and memory (`exec_writesOnly`,
`exec_mem_of_not_store`), and each unit keeps pc and status. -/
theorem arithmeticFrame : Obligations.ArithmeticFrame := by
  intro a f s t
  refine ⟨fun i hi h => ?_, fun i hi h => ?_, fun h => (exec_writesOnly h).ov rfl⟩
  · have hplace : KeepsPlace s t := by
      fin_cases hi
      · exact keepsPlace_withMemoryWord h fun _ _ => keepsPlace_addInto
      · exact keepsPlace_withMemoryWord h fun _ _ => keepsPlace_addInto
      · exact keepsPlace_withMemoryWord h fun _ _ => keepsPlace_multiplyInto
      · exact keepsPlace_withMemoryWord h fun _ _ => keepsPlace_divideInto
    fin_cases hi <;> exact exec_frame_of_writes_A_X h hplace (by simp [mayWrite]) rfl rfl
  · fin_cases hi <;> exact (exec_writesOnly h).regs .X (by simp [mayWrite])

end Sys2Proof.Machine
end

section
/-! PROOFS. Loads and stores (42_load_store.md R150 to R160): the members of each family over the six index
registers share one meaning, an index-register load ends as the field check of R103 says, and `MemoryFrame`
says once what a load or a store leaves unchanged. -/

namespace Sys2Proof.Machine

/-! ### The families over the index registers -/

/-- `fieldCoded_of_dispatch`, for an opcode given as a number. -/
theorem fieldCoded_of_opcode {k : Operand → FieldSpec → Instr} {n : Nat} (hn : n < 256)
    (h : ∀ a f, dispatch a f (BitVec.ofNat 8 n) = fieldInstr f (k a)) : FieldCoded k n := by
  have hc : (BitVec.ofNat 8 n).toNat = n := Nat.mod_eq_of_lt hn
  exact hc ▸ fieldCoded_of_dispatch h

section
variable (x : IndexReg)

theorem fieldCoded_ldi : FieldCoded (Instr.ldi x) (8 + indexNumber x) := by
  cases x <;> exact fieldCoded_of_opcode (by decide) fun _ _ => rfl

theorem fieldCoded_ldin : FieldCoded (Instr.ldin x) (16 + indexNumber x) := by
  cases x <;> exact fieldCoded_of_opcode (by decide) fun _ _ => rfl

theorem fieldCoded_sti : FieldCoded (Instr.sti x) (24 + indexNumber x) := by
  cases x <;> exact fieldCoded_of_opcode (by decide) fun _ _ => rfl

variable (a : Operand) (f : FieldSpec) (s : State)

theorem exec_ldi : exec (Instr.ldi x a f) s = s.loadIndex x a f := by
  cases x <;> rfl

theorem exec_ldin : exec (Instr.ldin x a f) s = s.loadIndexNegated x a f := by
  cases x <;> rfl

theorem exec_sti : exec (Instr.sti x a f) s = s.store (s.reg (indexReg x)) a f := by
  cases x <;> rfl

end

/-- Every store has the one meaning, for the word it stores. -/
theorem exec_store {x : IndexReg} {a : Operand} {f : FieldSpec} {i : Instr} (s : State)
    (hi : i ∈ [Instr.sta a f, .stx a f, .stj a f, .stz a f, Instr.sti x a f]) :
    ∃ src, exec i s = s.store src a f := by
  fin_cases hi
  · exact ⟨s.rA, rfl⟩
  · exact ⟨s.rX, rfl⟩
  · exact ⟨s.rJ, rfl⟩
  · exact ⟨Word.zero, rfl⟩
  · exact ⟨_, exec_sti x a f s⟩

/-! ### What each instruction does -/

/-- Settles O24: with M in memory each load ends as its meaning says of the word there. -/
theorem loadsOfAccumulatorAndExtension : Obligations.LoadsOfAccumulatorAndExtension := by
  refine ⟨fieldCoded_of_opcode (by decide) fun _ _ => rfl,
    fieldCoded_of_opcode (by decide) fun _ _ => rfl,
    fieldCoded_of_opcode (by decide) fun _ _ => rfl,
    fieldCoded_of_opcode (by decide) fun _ _ => rfl,
    fun a f s _ => ⟨fun hm i hi => ?_, fun hm => ?_⟩⟩
  · fin_cases hi <;> exact withMemoryWord_outOfRange hm
  · exact ⟨withMemoryWord_of_ok hm rfl, withMemoryWord_of_ok hm rfl, withMemoryWord_of_ok hm rfl,
      withMemoryWord_of_ok hm rfl⟩

section
variable {x : IndexReg} {a : Operand} {f : FieldSpec} {s : State} (hm : s.effAddr a ≤ 3999)
include hm

theorem loadIndex_of_ok {w : Word}
    (h : copyWordFieldsI (s.mem.read (s.effAddr a)) (s.reg (indexReg x)) f = .ok w) :
    s.loadIndex x a f = .next (s.setReg (indexReg x) w) :=
  withMemoryWord_of_ok hm (by rw [h])

theorem loadIndexNegated_of_ok {w : Word}
    (h : copyWordFieldsI (s.mem.read (s.effAddr a)) (s.reg (indexReg x)) f = .ok w) :
    s.loadIndexNegated x a f = .next (s.setReg (indexReg x) (negate w)) :=
  withMemoryWord_of_ok hm (by rw [h])

variable {c : FaultCode} {n : Nat}
  (h : copyWordFieldsI (s.mem.read (s.effAddr a)) (s.reg (indexReg x)) f = .error ⟨c, n⟩)
include h

theorem loadIndex_of_error : s.loadIndex x a f = .next (s.faultedWith c n) :=
  withMemoryWord_of_error hm (by rw [h])

theorem loadIndexNegated_of_error : s.loadIndexNegated x a f = .next (s.faultedWith c n) :=
  withMemoryWord_of_error hm (by rw [h])

end

/-- Settles O25: with M in memory both forms end as the field check of R103 does (`indexLoadFieldCheck`). -/
theorem loadsOfIndexRegisters : Obligations.LoadsOfIndexRegisters := by
  refine ⟨fun x => ⟨fieldCoded_ldi x, fieldCoded_ldin x⟩, fun x a f s hv => ?_⟩
  intro w r
  obtain ⟨hsix, hother⟩ := indexLoadFieldCheck w (s.reg r) f hv
  rw [exec_ldi, exec_ldin]
  refine ⟨fun hm i hi => ?_, fun hm hF i hi => ?_, fun hm hF =>
    ⟨loadIndex_of_ok hm (hother hF), loadIndexNegated_of_ok hm (hother hF)⟩⟩
  · fin_cases hi
    · exact (exec_ldi x a f s).trans (withMemoryWord_outOfRange hm)
    · exact (exec_ldin x a f s).trans (withMemoryWord_outOfRange hm)
  · fin_cases hi
    · exact (exec_ldi x a f s).trans (loadIndex_of_error hm (hsix hF))
    · exact (exec_ldin x a f s).trans (loadIndexNegated_of_error hm (hsix hF))

/-- With M in memory a store writes the word there. -/
theorem store_of_le {a : Operand} {f : FieldSpec} {s : State} (src : Word)
    (hm : s.effAddr a ≤ 3999) : s.store src a f =
      .next (s.writeWord (s.effAddr a) (storeOperation src (s.mem.read (s.effAddr a)) f)) :=
  withMemoryWord_of_ok hm rfl

/-- Settles O26: every store has the one meaning (`exec_store`), and a read after its write is
`read_write`. -/
theorem storesWriteTheWordAtM : Obligations.StoresWriteTheWordAtM := by
  refine ⟨fieldCoded_of_opcode (by decide) fun _ _ => rfl,
    fieldCoded_of_opcode (by decide) fun _ _ => rfl,
    fieldCoded_of_opcode (by decide) fun _ _ => rfl,
    fieldCoded_of_opcode (by decide) fun _ _ => rfl,
    fieldCoded_sti, fun x a f s _ => ⟨fun hm i hi => ?_, fun hm => ?_⟩⟩
  · obtain ⟨src, hx⟩ := exec_store s hi
    exact hx.trans (withMemoryWord_outOfRange hm)
  · exact ⟨store_of_le s.rA hm, store_of_le s.rX hm, store_of_le s.rJ hm, store_of_le Word.zero hm,
      (exec_sti x a f s).trans (store_of_le _ hm), fun hwf _ y => read_write hwf _ _ y⟩

/-! ### The frame (20_memory.md R54, 60_exceptions.md R281) -/

/-- From `s` to `t` at most the registers `rs` and the words at `as` change, and the status only by a
fault that changes nothing else. -/
def MemoryFrame (rs : List Reg) (as : List Nat) (s t : State) : Prop :=
  s.sameRegsBut rs t ∧ t.ov = s.ov ∧ t.cmp = s.cmp ∧ t.pc = s.pc ∧ s.sameMemoryBut as t ∧
    t.periph = s.periph ∧ s.statusFrame t

section
variable {rs : List Reg} {as : List Nat} {s t : State}

theorem memoryFrame_takeFault (e : Raised) : MemoryFrame rs as s (s.takeFault e) :=
  ⟨fun r _ => takeFault_reg s e r, rfl, rfl, rfl, fun _ _ => rfl, rfl, .inr ⟨_, _, rfl⟩⟩

theorem memoryFrame_setReg (r : Reg) (w : Word) : MemoryFrame [r] as s (s.setReg r w) :=
  ⟨(writesOnly_setReg (ov := false) (cmp := false) r w).regs, setReg_ov s r w, setReg_cmp s r w,
    setReg_pc s r w, fun _ _ => by rw [setReg_mem], setReg_periph s r w, .inl (setReg_status s r w)⟩

theorem memoryFrame_writeWord (hwf : s.mem.wf = true) (m : Nat) (w : Word) :
    MemoryFrame rs [m] s (s.writeWord m w) := by
  refine ⟨fun r _ => writeWord_reg s m w r, rfl, rfl, rfl, fun y hy => ?_, rfl, .inl rfl⟩
  rw [writeWord_mem, read_write hwf, if_neg (List.ne_of_not_mem_cons hy)]

theorem memoryFrame_withMemoryWord {m : Nat} {k : Word → Except Raised State}
    (h : s.withMemoryWord m k = .next t) (hok : ∀ w u, k w = .ok u → MemoryFrame rs as s u) :
    MemoryFrame rs as s t := by
  rcases withMemoryWord_cases h with ⟨_, rfl⟩ | ⟨_, hk⟩ | ⟨_, e, _, rfl⟩
  · exact memoryFrame_takeFault _
  · exact hok _ t hk
  · exact memoryFrame_takeFault e

variable {r : Reg} {x : IndexReg} {a : Operand} {f : FieldSpec}

theorem memoryFrame_load (h : s.load r a f = .next t) : MemoryFrame [r] [] s t :=
  memoryFrame_withMemoryWord h fun _ _ hk => by cases hk; exact memoryFrame_setReg r _

theorem memoryFrame_loadNegated (h : s.loadNegated r a f = .next t) : MemoryFrame [r] [] s t :=
  memoryFrame_withMemoryWord h fun _ _ hk => by cases hk; exact memoryFrame_setReg r _

theorem memoryFrame_loadIndex (h : s.loadIndex x a f = .next t) :
    MemoryFrame [indexReg x] [] s t := by
  refine memoryFrame_withMemoryWord h fun w u hk => ?_
  rcases hc : copyWordFieldsI w (s.reg (indexReg x)) f with e | v <;> rw [hc] at hk <;> cases hk
  exact memoryFrame_setReg _ v

theorem memoryFrame_loadIndexNegated (h : s.loadIndexNegated x a f = .next t) :
    MemoryFrame [indexReg x] [] s t := by
  refine memoryFrame_withMemoryWord h fun w u hk => ?_
  rcases hc : copyWordFieldsI w (s.reg (indexReg x)) f with e | v <;> rw [hc] at hk <;> cases hk
  exact memoryFrame_setReg _ (negate v)

theorem memoryFrame_store {src : Word} (hwf : s.mem.wf = true) (h : s.store src a f = .next t) :
    MemoryFrame [] [s.effAddr a] s t :=
  memoryFrame_withMemoryWord h fun _ _ hk => by cases hk; exact memoryFrame_writeWord hwf _ _

end

/-- Settles O39, one meaning of a load after the other. -/
theorem loadFrame : Obligations.LoadFrame := by
  intro x a f s t i r hi h
  rcases hi with ⟨rfl | rfl, rfl⟩ | ⟨rfl | rfl, rfl⟩ | ⟨rfl | rfl, rfl⟩
  · exact memoryFrame_load h
  · exact memoryFrame_loadNegated h
  · exact memoryFrame_load h
  · exact memoryFrame_loadNegated h
  · exact memoryFrame_loadIndex ((exec_ldi x a f s).symm.trans h)
  · exact memoryFrame_loadIndexNegated ((exec_ldin x a f s).symm.trans h)

/-- Settles O40: every store has the one meaning (`exec_store`). -/
theorem storeFrame : Obligations.StoreFrame := by
  intro x a f s t hwf i hi h
  obtain ⟨src, hx⟩ := exec_store s hi
  exact memoryFrame_store hwf (hx.symm.trans h)

end Sys2Proof.Machine
end

section
/-! PROOFS. Address transfer (43_address_transfer.md R169 to R181): the words that decode to a SUB-class
instruction, the four meanings ENT, ENN, INC and DEC over the eight registers, and that each of them writes
at most its register and OV. -/

namespace Sys2Proof.Machine

/-! ### The words of a SUB-class instruction (30_encoding.md R70 to R80) -/

/-- A pair of opcode and F that dispatches to an instruction is coded as the SUB class is. -/
theorem subCoded_of_dispatch {k : Operand → Instr} {c f : Nat}
    (h : ∀ a, dispatch a (BitVec.ofNat 8 f) (BitVec.ofNat 8 c) = .ok (k a)) : SubCoded k c f := by
  rintro w x hx rfl rfl
  simp only [BitVec.ofNat_toNat, BitVec.setWidth_eq] at h
  rw [decode_of_indexOf (indexOf_of_selectorNumber hx), h, ← addressField_eq_ofNat]

section
variable (x : IndexReg)

theorem subCoded_enti : SubCoded (Instr.enti x) (48 + indexNumber x) 2 := by
  cases x <;> exact subCoded_of_dispatch fun _ => rfl

theorem subCoded_enni : SubCoded (Instr.enni x) (48 + indexNumber x) 3 := by
  cases x <;> exact subCoded_of_dispatch fun _ => rfl

theorem subCoded_inci : SubCoded (Instr.inci x) (48 + indexNumber x) 0 := by
  cases x <;> exact subCoded_of_dispatch fun _ => rfl

theorem subCoded_deci : SubCoded (Instr.deci x) (48 + indexNumber x) 1 := by
  cases x <;> exact subCoded_of_dispatch fun _ => rfl

end

/-! ### The families over the index registers -/

section
variable (x : IndexReg) (a : Operand) (s : State)

theorem exec_enti : exec (Instr.enti x a) s = s.enter (indexReg x) a := by
  cases x <;> rfl

theorem exec_enni : exec (Instr.enni x a) s = s.enterNegative (indexReg x) a := by
  cases x <;> rfl

theorem exec_inci : exec (Instr.inci x a) s = s.increment (indexReg x) a := by
  cases x <;> rfl

theorem exec_deci : exec (Instr.deci x a) s = s.decrement (indexReg x) a := by
  cases x <;> rfl

end

/-! ### What each instruction does -/

/-- The two high bytes of an immediate word are 0, since M is below `256^3` (30_encoding.md R76). -/
theorem mkword_effAddr_high_bytes (sg : Sign) (a : Operand) (s : State) :
    (mkword sg (s.effAddr a)).b0 = 0 ∧ (mkword sg (s.effAddr a)).b1 = 0 := by
  have hM := effAddr_le s a
  have h0 : s.effAddr a / 256 ^ 4 = 0 := Nat.div_eq_of_lt (by omega)
  have h1 : s.effAddr a / 256 ^ 3 = 0 := Nat.div_eq_of_lt (by omega)
  exact ⟨congrArg (BitVec.ofNat 8) h0, congrArg (BitVec.ofNat 8) h1⟩

/-- Settles O27: every form has the one meaning `State.enter`. -/
theorem enterTheImmediateWord : Obligations.EnterTheImmediateWord := by
  refine ⟨subCoded_of_dispatch fun _ => rfl, subCoded_of_dispatch fun _ => rfl, subCoded_enti,
    fun x a s => ?_⟩
  obtain ⟨hb0, hb1⟩ := mkword_effAddr_high_bytes a.sign a s
  exact ⟨hb0, hb1, rfl, rfl, exec_enti x a s⟩

/-- Settles O28: every form has the one meaning `State.enterNegative`, which asks for `HAS_ENN`. -/
theorem enterNegativeIfPresent : Obligations.EnterNegativeIfPresent := by
  refine ⟨subCoded_of_dispatch fun _ => rfl, subCoded_of_dispatch fun _ => rfl, subCoded_enni,
    fun x a s => ⟨_, _, _, rfl, rfl, exec_enni x a s, fun henn => ?_, fun hno => ?_⟩⟩
  · exact ⟨if_pos henn, if_pos henn, if_pos henn⟩
  · have henn : ¬ Config.hasEnn = true := ne_true_of_eq_false hno
    exact ⟨if_neg henn, if_neg henn, if_neg henn⟩

/-- Under the window (0:5) the adder answers, so an addition of an immediate word takes no fault. -/
theorem addImmediate_ok (s : State) (r : Reg) (w : Word) :
    ∃ res ov, addWords (s.reg r) w wholeWord = .ok (res, ov) ∧
      s.conclude (s.addInto r w wholeWord) = .next ((s.setReg r res).setOv ov) := by
  obtain ⟨res, hadd, _⟩ := addWords_ok (s.reg r) w (f := wholeWord) rfl (by decide) rfl
  exact ⟨res, _, hadd, congrArg s.conclude (addInto_of_ok hadd)⟩

/-- Settles O29: INC and DEC are `addImmediate_ok` for the immediate word and for its negation. -/
theorem incrementAndDecrement : Obligations.IncrementAndDecrement := by
  refine ⟨subCoded_of_dispatch fun _ => rfl, subCoded_of_dispatch fun _ => rfl,
    subCoded_of_dispatch fun _ => rfl, subCoded_of_dispatch fun _ => rfl,
    fun x => ⟨subCoded_inci x, subCoded_deci x⟩, fun x a s => ?_⟩
  intro w done
  obtain ⟨sum, ovSum, hadd, hinc⟩ := addImmediate_ok s (indexReg x) w
  obtain ⟨diff, ovDiff, hsub, hdec⟩ := addImmediate_ok s (indexReg x) (negate w)
  exact ⟨addImmediate_ok s .A w, addImmediate_ok s .X w,
    ⟨sum, ovSum, hadd, (exec_inci x a s).trans hinc⟩,
    addImmediate_ok s .A (negate w), addImmediate_ok s .X (negate w),
    ⟨diff, ovDiff, hsub, (exec_deci x a s).trans hdec⟩⟩

/-! ### The frame (10_state.md R24 to R28) -/

/-- From `s` to `t` at most the register `r` and OV change. -/
structure TransferFrame (r : Reg) (s t : State) : Prop where
  regs : s.sameRegsBut [r] t
  cmp : t.cmp = s.cmp
  pc : t.pc = s.pc
  mem : t.mem = s.mem
  periph : t.periph = s.periph
  status : t.status = s.status

section
variable {r : Reg} {s t : State}

theorem transferFrame_setReg (w : Word) : TransferFrame r s (s.setReg r w) where
  regs := (writesOnly_setReg (ov := false) (cmp := false) r w).regs
  cmp := setReg_cmp s r w
  pc := setReg_pc s r w
  mem := setReg_mem s r w
  periph := setReg_periph s r w
  status := setReg_status s r w

theorem transferFrame_enter {a : Operand} (h : s.enter r a = .next t) : TransferFrame r s t := by
  cases h
  exact transferFrame_setReg _

theorem transferFrame_enterNegative {a : Operand} (h : s.enterNegative r a = .next t) :
    TransferFrame r s t := by
  cases h
  split
  · exact transferFrame_setReg _
  · exact ⟨fun _ _ => rfl, rfl, rfl, rfl, rfl, rfl⟩

/-- Writing OV after the register keeps the frame, in which OV is free. -/
theorem TransferFrame.setOv (h : TransferFrame r s t) (b : Bool) :
    TransferFrame r s (t.setOv b) where
  regs q hq := (setOv_reg t b q).trans (h.regs q hq)
  cmp := h.cmp
  pc := h.pc
  mem := h.mem
  periph := h.periph
  status := h.status

theorem transferFrame_addImmediate {w : Word}
    (h : s.conclude (s.addInto r w wholeWord) = .next t) : TransferFrame r s t := by
  obtain ⟨res, b, _, hok⟩ := addImmediate_ok s r w
  cases h.symm.trans hok
  exact (transferFrame_setReg res).setOv b

end

/-- ENT and ENN are no writers of OV (10_state.md R28). -/
theorem mayWriteOv_of_enters {x : IndexReg} {a : Operand} {i : Instr}
    (hi : i ∈ [Instr.enta a, .enna a, .entx a, .ennx a, Instr.enti x a, Instr.enni x a]) :
    mayWriteOv i = false := by
  have henti : mayWriteOv (Instr.enti x a) = false := by cases x <;> rfl
  have henni : mayWriteOv (Instr.enni x a) = false := by cases x <;> rfl
  fin_cases hi
  exacts [rfl, rfl, rfl, rfl, henti, henni]

/-- Settles O42, one meaning after the other; OV has only its writers (`exec_writesOnly`). -/
theorem addressTransferFrame : Obligations.AddressTransferFrame := by
  intro x a s t i r hi h
  have hframe : TransferFrame r s t := by
    rcases hi with ⟨hi, rfl⟩ | ⟨hi, rfl⟩ | ⟨hi, rfl⟩ <;> fin_cases hi
    · exact transferFrame_enter h
    · exact transferFrame_enterNegative h
    · exact transferFrame_addImmediate h
    · exact transferFrame_addImmediate h
    · exact transferFrame_enter h
    · exact transferFrame_enterNegative h
    · exact transferFrame_addImmediate h
    · exact transferFrame_addImmediate h
    · exact transferFrame_enter ((exec_enti x a s).symm.trans h)
    · exact transferFrame_enterNegative ((exec_enni x a s).symm.trans h)
    · exact transferFrame_addImmediate ((exec_inci x a s).symm.trans h)
    · exact transferFrame_addImmediate ((exec_deci x a s).symm.trans h)
  exact ⟨hframe.regs, hframe.cmp, hframe.pc, fun y _ => by rw [hframe.mem], hframe.periph,
    hframe.status, fun henters => (exec_writesOnly h).ov (mayWriteOv_of_enters henters)⟩

end Sys2Proof.Machine
end

section
/-! PROOFS. Compare (44_compare.md R190 to R192): the eight compares share one meaning, `compare_cases` says
once how it can end, and the effect and the frame follow from that. -/

namespace Sys2Proof.Machine

/-! ### The family over the index registers -/

theorem fieldCoded_cmpi (x : IndexReg) : FieldCoded (Instr.cmpi x) (56 + indexNumber x) := by
  cases x <;> exact fieldCoded_of_opcode (by decide) fun _ _ => rfl

theorem exec_cmpi (x : IndexReg) (a : Operand) (f : FieldSpec) (s : State) :
    exec (Instr.cmpi x a f) s = s.compare (indexReg x) a f := by
  cases x <;> rfl

/-- Every compare has the one meaning, for the register it compares. -/
theorem exec_compare {x : IndexReg} {a : Operand} {f : FieldSpec} {i : Instr} (s : State)
    (hi : i ∈ [Instr.cmpa a f, .cmpx a f, Instr.cmpi x a f]) :
    ∃ r, exec i s = s.compare r a f := by
  fin_cases hi
  · exact ⟨.A, rfl⟩
  · exact ⟨.X, rfl⟩
  · exact ⟨_, exec_cmpi x a f s⟩

/-! ### What a compare does -/

section
variable {s t : State} {r : Reg} {a : Operand} {f : FieldSpec}

/-- With M in memory a compare writes CMP. -/
theorem compare_of_le (r : Reg) (f : FieldSpec) (hm : s.effAddr a ≤ 3999) :
    s.compare r a f =
      .next (s.setCmp (compareWords (s.reg r) (s.mem.read (s.effAddr a)) f)) :=
  withMemoryWord_of_ok hm rfl

/-- Everything a compare can do: fault on the address, or write CMP; its window raises no fault. -/
theorem compare_cases (h : s.compare r a f = .next t) :
    (3999 < s.effAddr a ∧ t = s.takeFault ⟨.addressOutOfRange, s.effAddr a⟩) ∨
    (s.effAddr a ≤ 3999 ∧
      t = s.setCmp (compareWords (s.reg r) (s.mem.read (s.effAddr a)) f)) := by
  rcases Nat.lt_or_ge 3999 (s.effAddr a) with hm | hm
  · exact .inl ⟨hm, Host.Outcome.next.inj (h.symm.trans (withMemoryWord_outOfRange hm))⟩
  · exact .inr ⟨hm, Host.Outcome.next.inj (h.symm.trans (compare_of_le r f hm))⟩

end

/-- Settles O30: every compare has the one meaning (`exec_compare`), and with M in memory it ends as
`compare_of_le` says, whatever its window. -/
theorem comparesWriteTheFlag : Obligations.ComparesWriteTheFlag := by
  refine ⟨fieldCoded_of_opcode (by decide) fun _ _ => rfl,
    fieldCoded_of_opcode (by decide) fun _ _ => rfl,
    fieldCoded_cmpi, fun x a f s _ => ⟨fun hm i hi => ?_, fun hm => ?_⟩⟩
  · obtain ⟨r, hx⟩ := exec_compare s hi
    exact hx.trans (withMemoryWord_outOfRange hm)
  · exact ⟨compare_of_le .A f hm, compare_of_le .X f hm,
      (exec_cmpi x a f s).trans (compare_of_le (indexReg x) f hm)⟩

/-- Settles O41: a compare ends in the state of a fault or with CMP written (`compare_cases`), and neither
changes anything else. -/
theorem compareFrame : Obligations.CompareFrame := by
  intro x a f s t i hi h
  obtain ⟨r, hx⟩ := exec_compare s hi
  rcases compare_cases (hx.symm.trans h) with ⟨_, rfl⟩ | ⟨_, rfl⟩
  · exact ⟨fun q _ => takeFault_reg s _ q, rfl, rfl, fun _ _ => rfl, rfl, .inr ⟨_, _, rfl⟩⟩
  · exact ⟨fun q _ => setCmp_reg s _ q, rfl, rfl, fun _ _ => rfl, rfl, .inl rfl⟩

end Sys2Proof.Machine
end

section
/-! PROOFS. Jumps (45_jump.md R199 to R229): the register comparator and the condition table, what a jump
makes of the state, its frame, and the step at the word of a jump. -/

namespace Sys2Proof.Machine

/-! ### The comparator and the condition table (R199, R211) -/

section
variable {s : State} {r : Reg}

/-- A word of minus sign, `-0` too, is below `+0`, whose sign differs. -/
theorem compareWithZero_of_minus (hs : (s.reg r).sign = .minus) : s.compareWithZero r = .less := by
  have hne : (s.reg r).sign ≠ Word.zero.sign := by rw [hs]; decide
  have hless := (comparatorOrdersWindows (s.reg r) Word.zero wholeWord rfl).2.1 (by decide) rfl hne
  rw [hs] at hless
  exact hless

/-- A word of plus sign compares with `+0` as its magnitude does with 0, and is `+0` if that is 0. -/
theorem compareWithZero_of_plus (hs : (s.reg r).sign = .plus) :
    s.compareWithZero r = if s.reg r = Word.zero then .equal else .greater := by
  have hcmp : s.compareWithZero r = if 0 < mag (s.reg r) then .greater else .equal :=
    (comparatorOrdersWindows (s.reg r) Word.zero wholeWord rfl).2.2 (by decide) (.inr hs)
  have hzero : s.reg r = Word.zero ↔ mag (s.reg r) = 0 := by
    refine ⟨fun h => by rw [h]; rfl, fun h => ?_⟩
    rw [← mkword_mag (s.reg r), hs, h]
    rfl
  simp only [hcmp, hzero, Nat.pos_iff_ne_zero, ite_not]

theorem compareWithZero_less : s.compareWithZero r = .less ↔ (s.reg r).sign = .minus := by
  cases hs : (s.reg r).sign with
  | minus => simp [compareWithZero_of_minus hs]
  | plus =>
    rw [compareWithZero_of_plus hs]
    split <;> simp

theorem compareWithZero_equal : s.compareWithZero r = .equal ↔ s.reg r = Word.zero := by
  cases hs : (s.reg r).sign with
  | minus =>
    have hne : s.reg r ≠ Word.zero := fun h => nomatch (congrArg Word.sign h).symm.trans hs
    simp [compareWithZero_of_minus hs, hne]
  | plus =>
    rw [compareWithZero_of_plus hs]
    split <;> simp [*]

end

/-- The condition table over what LESS and EQUAL mean; GREATER is neither. -/
theorem conditionHolds_iff {c : Cmp} {less equal : Prop} (hless : c = .less ↔ less)
    (hequal : c = .equal ↔ equal) (k : Nat) :
    conditionHolds k c = true ↔ jumpCondition less equal k := by
  match k with
  | 0 | 1 | 2 | 3 | 4 | 5 => cases c <;> simp [conditionHolds, jumpCondition, ← hless, ← hequal]
  | k + 6 => simp [conditionHolds, jumpCondition]

/-! ### What each instruction does -/

section
variable {s : State} {p : Prop} [Decidable p] {a : Operand}

theorem jump_of_iff {taken : Bool} (h : taken = true ↔ p) :
    s.jump taken a = .next (if p then s.jumpedTo (s.effAddr a) else s) := by
  cases taken
  · rw [if_neg fun hp => nomatch h.mpr hp]
    rfl
  · rw [if_pos (h.mp rfl)]
    rfl

/-- A register jump asks whether the word is negative (`-0` is) and whether it is `+0`. -/
theorem registerJump_of_iff {r : Reg} {k : Nat}
    (h : jumpCondition ((s.reg r).sign = .minus) (s.reg r = Word.zero) k ↔ p) :
    s.registerJump k r a = .next (if p then s.jumpedTo (s.effAddr a) else s) :=
  jump_of_iff ((conditionHolds_iff compareWithZero_less compareWithZero_equal k).trans h)

end

section
variable (x : IndexReg) (a : Operand) (s : State)

theorem exec_jin : exec (Instr.jin x a) s = s.registerJump 0 (indexReg x) a := by
  cases x <;> rfl

theorem exec_jiz : exec (Instr.jiz x a) s = s.registerJump 1 (indexReg x) a := by
  cases x <;> rfl

theorem exec_jip : exec (Instr.jip x a) s = s.registerJump 2 (indexReg x) a := by
  cases x <;> rfl

theorem exec_jinn : exec (Instr.jinn x a) s = s.registerJump 3 (indexReg x) a := by
  cases x <;> rfl

theorem exec_jinz : exec (Instr.jinz x a) s = s.registerJump 4 (indexReg x) a := by
  cases x <;> rfl

theorem exec_jinp : exec (Instr.jinp x a) s = s.registerJump 5 (indexReg x) a := by
  cases x <;> rfl

end

/-- Settles O31: the meanings compute, the overflow jumps on either value of OV. -/
theorem unconditionalAndOverflowJumps : Obligations.UnconditionalAndOverflowJumps := by
  refine ⟨?_, ?_, ?_, ?_, fun a s => ⟨rfl, rfl, ?_, ?_⟩⟩
  iterate 4 exact subCoded_of_dispatch fun _ => rfl
  · change s.overflowJump s.ov a = _
    cases s.ov <;> rfl
  · change s.overflowJump (!s.ov) a = _
    cases s.ov <;> rfl

/-- Settles O32: each is a jump on its own line of the condition table, which names the flag's value. -/
theorem jumpsOnTheComparisonFlag : Obligations.JumpsOnTheComparisonFlag := by
  refine ⟨?_, ?_, ?_, ?_, ?_, ?_, fun a s => ⟨?_, ?_, ?_, ?_, ?_, ?_⟩⟩
  iterate 6 exact subCoded_of_dispatch fun _ => rfl
  all_goals exact jump_of_iff decide_eq_true_iff

/-- Settles O33: each is a register jump on rA (`registerJump_of_iff`). -/
theorem jumpsOnTheAccumulator : Obligations.JumpsOnTheAccumulator := by
  refine ⟨?_, ?_, ?_, ?_, ?_, ?_, fun a s => ⟨?_, ?_, ?_, ?_, ?_, ?_⟩⟩
  iterate 6 exact subCoded_of_dispatch fun _ => rfl
  all_goals exact registerJump_of_iff (r := .A) Iff.rfl

/-- Settles O34: each is a register jump on rX (`registerJump_of_iff`). -/
theorem jumpsOnTheExtension : Obligations.JumpsOnTheExtension := by
  refine ⟨?_, ?_, ?_, ?_, ?_, ?_, fun a s => ⟨?_, ?_, ?_, ?_, ?_, ?_⟩⟩
  iterate 6 exact subCoded_of_dispatch fun _ => rfl
  all_goals exact registerJump_of_iff (r := .X) Iff.rfl

/-- Settles O35: each is a register jump on the index register (`registerJump_of_iff`). -/
theorem jumpsOnIndexRegisters : Obligations.JumpsOnIndexRegisters := by
  refine ⟨fun x => ?_, fun x a s => ?_⟩
  · cases x <;> refine ⟨?_, ?_, ?_, ?_, ?_, ?_⟩ <;> exact subCoded_of_dispatch fun _ => rfl
  · rw [exec_jin, exec_jiz, exec_jip, exec_jinn, exec_jinz, exec_jinp]
    refine ⟨?_, ?_, ?_, ?_, ?_, ?_⟩
    all_goals exact registerJump_of_iff Iff.rfl

/-! ### The frame (10_state.md R27) -/

/-- Everything a jump can be: one that saves and leaves OV alone, JSJ, or JOV or JNOV. -/
theorem exec_jump {x : IndexReg} {a : Operand} {i : Instr} (s : State)
    (hi : i ∈ [Instr.jmp a, .jsj a, .jov a, .jnov a, .jl a, .je a, .jg a, .jge a, .jne a, .jle a,
      .jan a, .jaz a, .jap a, .jann a, .janz a, .janp a,
      .jxn a, .jxz a, .jxp a, .jxnn a, .jxnz a, .jxnp a,
      Instr.jin x a, Instr.jiz x a, Instr.jip x a, Instr.jinn x a, Instr.jinz x a,
      Instr.jinp x a]) :
    (∃ taken, exec i s = s.jump taken a) ∨ i = .jsj a ∨
      ((i = .jov a ∨ i = .jnov a) ∧ ∃ taken, exec i s = s.overflowJump taken a) := by
  fin_cases hi
  · exact .inl ⟨_, rfl⟩
  · exact .inr (.inl rfl)
  · exact .inr (.inr ⟨.inl rfl, _, rfl⟩)
  · exact .inr (.inr ⟨.inr rfl, _, rfl⟩)
  iterate 18 exact .inl ⟨_, rfl⟩
  exacts [.inl ⟨_, exec_jin x a s⟩, .inl ⟨_, exec_jiz x a s⟩, .inl ⟨_, exec_jip x a s⟩,
    .inl ⟨_, exec_jinn x a s⟩, .inl ⟨_, exec_jinz x a s⟩, .inl ⟨_, exec_jinp x a s⟩]

/-- From `s` to `t` at most rJ, OV and the pc change, and rJ only together with the pc, which is then `m`. -/
structure JumpsTo (m : Nat) (s t : State) : Prop where
  regs : s.sameRegsBut [.J] t
  cmp : t.cmp = s.cmp
  mem : t.mem = s.mem
  periph : t.periph = s.periph
  status : t.status = s.status
  pc : t.pc = s.pc ∧ t.rJ = s.rJ ∨ t.pc = m

theorem jumpsTo_jumpIf (s : State) (v taken : Bool) (m : Nat) (save : Bool) :
    JumpsTo m s ((s.setOv v).jumpIf taken m save) where
  regs := ((writesOnly_self.setOv v).jumpIf (cmp := false) taken m
    fun _ => List.mem_singleton_self _).regs
  cmp := jumpIf_cmp _ taken m save
  mem := jumpIf_mem _ taken m save
  periph := jumpIf_periph _ taken m save
  status := jumpIf_status _ taken m save
  pc := by
    cases taken
    · exact .inl ⟨rfl, rfl⟩
    · exact .inr (jumpIf_pc _ true m save)

/-- Settles O43: each of the three kinds of jump (`exec_jump`) goes to M or nowhere (`jumpsTo_jumpIf`). -/
theorem jumpFrame : Obligations.JumpFrame := by
  intro x a s t i hi h
  have hjsj : i = .jsj a → t = s.setPc (s.effAddr a) := by
    rintro rfl
    cases h
    rfl
  have hjump : JumpsTo (s.effAddr a) s t ∧ (i ≠ .jov a → i ≠ .jnov a → t.ov = s.ov) := by
    rcases exec_jump s hi with ⟨taken, hx⟩ | hi | ⟨hi, taken, hx⟩
    · cases h.symm.trans hx
      exact ⟨jumpsTo_jumpIf s s.ov taken _ true, fun _ _ => jumpIf_ov s taken _ true⟩
    · rw [hjsj hi]
      exact ⟨jumpsTo_jumpIf s s.ov true _ false, fun _ _ => rfl⟩
    · cases h.symm.trans hx
      exact ⟨jumpsTo_jumpIf s false taken _ true, fun h1 h2 => absurd hi (not_or_intro h1 h2)⟩
  obtain ⟨hto, hov⟩ := hjump
  exact ⟨hto.regs, hto.cmp, fun y _ => by rw [hto.mem], hto.periph, hto.status, hov,
    fun hi => by rw [hjsj hi]; rfl, hto.pc⟩

/-! ### The step at the word of a jump (47_control_and_run_loop.md R254, R255) -/

/-- The sequencer after an instruction that left the machine running. -/
theorem step_of_exec_running {s u : State} {i : Instr} (hrun : s.status = .running)
    (hp : s.pc ≤ 3999) (hd : decode (s.mem.read s.pc) = .ok i) (hx : exec i s = .next u)
    (hu : u.status = .running) :
    step s = .next
      (if u.pc = 4000 then { u with status := .halted } else { u with pc := u.pc + 1 }) := by
  rw [step_of_exec hrun (Nat.lt_succ_of_le hp) hd hx, advance_of_running hu]

/-- Settles O51: the increment brings the pc from M back to where it was. -/
theorem jumpBeforeItselfLeavesEverything : Obligations.JumpBeforeItselfLeavesEverything := by
  intro a s hrun hp hd hm
  have hx : exec (.jsj a) s = .next (s.setPc (s.effAddr a)) := rfl
  have hne : (s.setPc (s.effAddr a)).pc ≠ 4000 := by rw [setPc_pc]; omega
  rw [step_of_exec_running hrun hp hd hx hrun, if_neg hne, setPc_pc, hm]
  rfl

/-- OV after executing the jump with opcode `c` and F `f`: JOV and JNOV clear it (R203, R204). -/
def ovAfterJump (s : State) (c f : Nat) : Bool :=
  if c = 39 ∧ (f = 2 ∨ f = 3) then false else s.ov

/-- rJ after the jump with opcode `c` and F `f` is taken: only JSJ does not save (R200, R202). -/
def rJAfterJump (s : State) (c f : Nat) : Word :=
  if c = 39 ∧ f = 1 then s.rJ else mkword .plus (s.pc + 1)

/-- Executing the jump with opcode `c`, F `f` and M `m` answers, by whether the jump is taken. -/
def JumpOutcome (s : State) (m c f : Nat) (o : Host.Outcome State Fault Refusal) : Prop :=
  (jumpTaken s c f →
    o = .next { s with ov := ovAfterJump s c f, rJ := rJAfterJump s c f, pc := m }) ∧
  (¬ jumpTaken s c f → o = .next { s with ov := ovAfterJump s c f })

section
variable {s : State} {m c f : Nat}

theorem jumpOutcome_of_jumpIf {v taken save : Bool} (htaken : taken = true ↔ jumpTaken s c f)
    (hov : v = ovAfterJump s c f)
    (hrJ : (if save then mkword .plus (s.pc + 1) else s.rJ) = rJAfterJump s c f) :
    JumpOutcome s m c f (.next ((s.setOv v).jumpIf taken m save)) := by
  rw [JumpOutcome, ← htaken, ← hov, ← hrJ]
  refine ⟨fun h => ?_, fun h => ?_⟩
  · subst h
    cases save <;> rfl
  · rw [Bool.eq_false_iff.mpr h]
    rfl

/-- A register jump with opcode `c`, for the register that `c` names. -/
theorem jumpOutcome_registerJump {a : Operand} {r : Reg} (hc : c ≠ 39)
    (hr : s.reg r = testedRegister s c) :
    JumpOutcome s (s.effAddr a) c f (s.registerJump f r a) := by
  refine jumpOutcome_of_jumpIf (v := s.ov) (save := true) ?_ ?_ ?_
  · rw [jumpTaken, if_neg hc, ← hr]
    exact conditionHolds_iff compareWithZero_less compareWithZero_equal f
  · exact (if_neg fun h => hc h.1).symm
  · exact (if_neg fun h => hc h.1).symm

/-- A jump on CMP has F = 4 for the first line of the condition table. -/
theorem jumpOutcome_flagJump (s : State) (k : Nat) (a : Operand) :
    JumpOutcome s (s.effAddr a) 39 (k + 4) (s.flagJump k a) := by
  refine jumpOutcome_of_jumpIf (v := s.ov) (save := true) ?_ ?_ ?_
  · exact conditionHolds_iff Iff.rfl Iff.rfl k
  · exact (if_neg (by omega)).symm
  · exact (if_neg (by omega)).symm

end

/-- The meanings of opcode 39, by F (R201 to R210). -/
def opcode39Jump (a : Operand) : Nat → State → Host.Outcome State Fault Refusal
  | 0 => execJmp a
  | 1 => execJsj a
  | 2 => execJov a
  | 3 => execJnov a
  | k + 4 => fun s => s.flagJump k a

theorem jumpOutcome_opcode39 (s : State) (a : Operand) (f : Nat) :
    JumpOutcome s (s.effAddr a) 39 f (opcode39Jump a f s) := by
  match f with
  | 0 => exact jumpOutcome_of_jumpIf (v := s.ov) (save := true) (iff_of_true rfl trivial) rfl rfl
  | 1 => exact jumpOutcome_of_jumpIf (v := s.ov) (save := false) (iff_of_true rfl trivial) rfl rfl
  | 2 => exact jumpOutcome_of_jumpIf (save := true) Iff.rfl rfl rfl
  | 3 => exact jumpOutcome_of_jumpIf (save := true) (Bool.not_eq_true' _).to_iff rfl rfl
  | k + 4 => exact jumpOutcome_flagJump s k a

section
variable {a : Operand} {f c : Byte}

/-- A SUB-class opcode `n` whose sub-codes have the meanings `g`, each with the outcome of its jump. -/
theorem subInstr_jumps {n k : Nat} {subs : List Instr}
    (g : Nat → State → Host.Outcome State Fault Refusal) (hc : c.toNat = n)
    (hg : ∀ s, JumpOutcome s (s.effAddr a) n f.toNat (g f.toNat s)) (hf : f.toNat < k)
    (hsubs : subs.map exec = (List.range k).map g) :
    ∃ i, subInstr a f c subs = .ok i ∧
      ∀ s, JumpOutcome s (s.effAddr a) c.toNat f.toNat (exec i s) := by
  have hget := congrArg (·[f.toNat]?) hsubs
  simp only [List.getElem?_map, List.getElem?_range hf, Option.map_some,
    Option.map_eq_some_iff] at hget
  obtain ⟨i, hi, hx⟩ := hget
  refine ⟨i, by rw [subInstr, hi], fun s => ?_⟩
  rw [hx, hc]
  exact hg s

/-- An opcode of register jumps, by the register it names. -/
theorem subInstr_registerJumps {n : Nat} {subs : List Instr} (r : Reg)
    (h : jumpCode c.toNat f.toNat) (hc : c.toNat = n) (h39 : n ≠ 39)
    (hr : ∀ s, s.reg r = testedRegister s n)
    (hsubs : subs.map exec = (List.range 6).map fun k s => s.registerJump k r a) :
    ∃ i, subInstr a f c subs = .ok i ∧
      ∀ s, JumpOutcome s (s.effAddr a) c.toNat f.toNat (exec i s) := by
  have hf : f.toNat < 6 := by unfold jumpCode at h; omega
  exact subInstr_jumps _ hc (fun s => jumpOutcome_registerJump h39 (hr s)) hf hsubs

theorem dispatchJumps_jump (h : jumpCode c.toNat f.toNat) :
    ∃ i, dispatchJumps a f c = .ok i ∧
      ∀ s, JumpOutcome s (s.effAddr a) c.toNat f.toNat (exec i s) := by
  unfold dispatchJumps
  split
  case h_1 hc =>
    have hf : f.toNat < 10 := by unfold jumpCode at h; omega
    exact subInstr_jumps (opcode39Jump a) hc (fun s => jumpOutcome_opcode39 s a _) hf rfl
  case h_2 hc => exact subInstr_registerJumps .A h hc (by decide) (fun _ => rfl) rfl
  case h_3 hc => exact subInstr_registerJumps .I1 h hc (by decide) (fun _ => rfl) rfl
  case h_4 hc => exact subInstr_registerJumps .I2 h hc (by decide) (fun _ => rfl) rfl
  case h_5 hc => exact subInstr_registerJumps .I3 h hc (by decide) (fun _ => rfl) rfl
  case h_6 hc => exact subInstr_registerJumps .I4 h hc (by decide) (fun _ => rfl) rfl
  case h_7 hc => exact subInstr_registerJumps .I5 h hc (by decide) (fun _ => rfl) rfl
  case h_8 hc => exact subInstr_registerJumps .I6 h hc (by decide) (fun _ => rfl) rfl
  case h_9 hc => exact subInstr_registerJumps .X h hc (by decide) (fun _ => rfl) rfl
  case h_10 =>
    simp only [imp_false] at *
    unfold jumpCode at h
    omega

theorem dispatch_jumpCode (h : jumpCode c.toNat f.toNat) : dispatch a f c = dispatchJumps a f c := by
  unfold jumpCode at h
  unfold dispatch
  rw [if_neg (by omega), if_neg (by omega), if_neg (by omega), if_neg (by omega), if_neg (by omega),
    if_pos (by omega)]

end

/-- The word of a jump decodes, and executing it does what its bytes say. -/
theorem decode_jump {w : Word} (h6 : w.b2.toNat ≤ 6) (h : jumpCode w.b4.toNat w.b3.toNat) :
    ∃ i, decode w = .ok i ∧
      ∀ s, JumpOutcome s (resolvedAddress s w) w.b4.toNat w.b3.toNat (exec i s) := by
  obtain ⟨x, hx⟩ := indexOf_ok h6
  have hM : ∀ s, resolvedAddress s w = s.effAddr ⟨w.sign, addressField w, x⟩ := fun s => by
    rw [← resolvedAddress_instrWord s _ w.b3 w.b4, instrWord_fields hx]
  simp only [decode_of_indexOf hx, dispatch_jumpCode h, hM]
  exact dispatchJumps_jump h

/-- Settles O50: the word decodes to a jump with the outcome its bytes say (`decode_jump`), and the
sequencer then halts at pc 4000 or increments (`step_of_exec_running`). -/
theorem takenJumpLandsAfterItsTarget : Obligations.TakenJumpLandsAfterItsTarget := by
  intro s hrun hp w c f m ov rJ h6 hcode
  obtain ⟨i, hd, hx⟩ := decode_jump h6 hcode
  obtain ⟨htaken, huntaken⟩ := hx s
  refine ⟨fun ht hm => ?_, fun ht (hm : resolvedAddress s w = 4000) => ?_, fun ht => ?_⟩
  · exact (step_of_exec_running hrun hp hd (htaken ht) hrun).trans (congrArg _ (if_neg hm))
  · rw [step_of_exec_running hrun hp hd (htaken ht) hrun, if_pos hm, hm]
    rfl
  · have hne : s.pc ≠ 4000 := by omega
    exact (step_of_exec_running hrun hp hd (huntaken ht) hrun).trans (congrArg _ (if_neg hne))

end Sys2Proof.Machine
end

section
/-! PROOFS. Shifts (46_shift.md R240 to R246): a count of the whole width or more clears, a rotation's
count matters modulo 5, and every shift writes rA and rX with the signs they had. -/

namespace Sys2Proof.Machine

/-! ### Large counts (R241 to R246) -/

section
variable {n : Nat}

/-- Multiplied by `256^n`, a number has no digits below the `n`-th. -/
theorem mul_pow_mod_pow_eq_zero (p : Nat) {N : Nat} (h : N ≤ n) : p * 256 ^ n % 256 ^ N = 0 :=
  Nat.mod_eq_zero_of_dvd (Dvd.dvd.mul_left (pow_dvd_pow 256 h) p)

/-- Divided by `256^n`, a number of at most `n` digits is 0. -/
theorem div_pow_eq_zero {p N : Nat} (hp : p < 256 ^ N) (h : N ≤ n) : p / 256 ^ n = 0 :=
  Nat.div_eq_of_lt (hp.trans_le (Nat.pow_le_pow_right (by omega) h))

theorem mag_shiftLeft_eq_zero (w : Word) (h : 5 ≤ n) : mag (shiftLeft w n false) = 0 := by
  rw [mag_shiftLeft, mul_pow_mod_pow_eq_zero _ h]

theorem mag_shiftRight_eq_zero (w : Word) (h : 5 ≤ n) : mag (shiftRight w n false) = 0 := by
  rw [mag_shiftRight, div_pow_eq_zero (mag_lt w) h]

theorem pairMag_eq_zero_iff {u l : Word} : pairMag u l = 0 ↔ mag u = 0 ∧ mag l = 0 := by
  unfold pairMag
  omega

theorem mag_doubleShiftLeft_eq_zero (u l : Word) (h : 10 ≤ n) :
    mag (doubleShiftLeft u l n).1 = 0 ∧ mag (doubleShiftLeft u l n).2 = 0 := by
  rw [← pairMag_eq_zero_iff, pairMag_doubleShiftLeft, mul_pow_mod_pow_eq_zero _ h]

theorem mag_doubleShiftRight_eq_zero (u l : Word) (h : 10 ≤ n) :
    mag (doubleShiftRight u l n).1 = 0 ∧ mag (doubleShiftRight u l n).2 = 0 := by
  rw [← pairMag_eq_zero_iff, pairMag_doubleShiftRight, div_pow_eq_zero (pairMag_lt u l) h]

end

theorem rotateRight_mod_five (w : Word) (n : Nat) :
    shiftRight w n true = shiftRight w (n % 5) true :=
  word_ext rfl fun k hk => by
    rw [rotateRight_byte w n hk, rotateRight_byte w _ hk, Nat.mod_mod]

/-- Settles O36: the meanings compute, M is at most 131070 (`effAddr_le`), and what a large count does is
said by the numbers of the shifted words. -/
theorem shiftsTakeTheirCountFromM : Obligations.ShiftsTakeTheirCountFromM := by
  refine ⟨?_, ?_, ?_, ?_, ?_, ?_, fun a s => ⟨rfl, rfl, rfl, rfl, rfl, rfl, effAddr_le s a,
    rotateLeft_mod_five _ _, rotateRight_mod_five _ _, fun h5 => ?_, fun h10 => ?_⟩⟩
  iterate 6 exact subCoded_of_dispatch fun _ => rfl
  · exact ⟨mag_shiftLeft_eq_zero _ h5, mag_shiftRight_eq_zero _ h5⟩
  · obtain ⟨hlA, hlX⟩ := mag_doubleShiftLeft_eq_zero s.rA s.rX h10
    exact ⟨hlA, hlX, mag_doubleShiftRight_eq_zero s.rA s.rX h10⟩

/-! ### The frame (10_state.md R24 to R29) -/

section
variable {a : Operand} {i : Instr} (s : State)

/-- A shift of rA alone writes rA, with its old sign. -/
theorem exec_singleShift (hi : i ∈ [Instr.sla a, .sra a, .slc a, .src a]) :
    ∃ u, exec i s = .next (s.setReg .A u) ∧ u.sign = s.rA.sign := by
  fin_cases hi <;> exact ⟨_, rfl, rfl⟩

/-- Every shift writes rA and rX, with their old signs; a shift of rA alone writes to rX what it holds. -/
theorem exec_shift (hi : i ∈ [Instr.sla a, .sra a, .slc a, .src a, .slax a, .srax a]) :
    ∃ u l, exec i s = .next ((s.setReg .A u).setReg .X l) ∧
      u.sign = s.rA.sign ∧ l.sign = s.rX.sign := by
  rcases List.mem_append (s := [Instr.sla a, .sra a, .slc a, .src a]).mp hi with hsingle | hpair
  · obtain ⟨u, hx, hu⟩ := exec_singleShift s hsingle
    exact ⟨u, s.rX, hx, hu, rfl⟩
  · fin_cases hpair <;> exact ⟨_, _, rfl, rfl, rfl⟩

end

/-- Settles O44: a shift ends in the state with rA and rX written (`exec_shift`, `exec_singleShift`). -/
theorem shiftFrame : Obligations.ShiftFrame := by
  refine fun a s t => ⟨fun i hi h => ?_, fun i hi h => ?_⟩
  · obtain ⟨u, l, hx, hu, hl⟩ := exec_shift s hi
    cases h.symm.trans hx
    exact ⟨(writesOnly_setRegPair (ov := false) (cmp := false) u l).regs, hu, hl, rfl, rfl, rfl,
      fun _ _ => rfl, rfl, rfl⟩
  · obtain ⟨u, hx, _⟩ := exec_singleShift s hi
    cases h.symm.trans hx
    rfl

end Sys2Proof.Machine
end

section
/-! PROOFS. Halt and the step (47_control_and_run_loop.md R250 to R257): the step from each status, the halt
check after execute, and which instructions move the pc. -/

namespace Sys2Proof.Machine

/-! ### The step from each status (R252, R257) -/

section
variable {s t u : State} {i : Instr}

theorem step_of_halted (h : s.status = .halted) : step s = .fault .stepAfterHalt := by
  simp only [step, h]

theorem step_of_faulted {c : FaultCode} {r : FaultRecord} (h : s.status = .faulted c r) :
    step s = .fault (.stepAfterFault c r) := by
  simp only [step, h]

theorem advance_of_not_running (h : u.status ≠ .running) : u.advance = u := by
  unfold State.advance
  split
  · exact absurd ‹_› h
  · rfl
  · rfl

theorem step_of_exec_not_running (hrun : s.status = .running) (hp : s.pc ≤ 3999)
    (hd : decode (s.mem.read s.pc) = .ok i) (hx : exec i s = .next u) (hu : u.status ≠ .running) :
    step s = .next u := by
  rw [step_of_exec hrun (Nat.lt_succ_of_le hp) hd hx, advance_of_not_running hu]

/-- The halt check (R254). -/
theorem step_of_exec_halt (hrun : s.status = .running) (hp : s.pc ≤ 3999)
    (hd : decode (s.mem.read s.pc) = .ok i) (hx : exec i s = .next u) (hu : u.status = .running)
    (hpc : u.pc = 4000) : step s = .next { u with status := .halted } := by
  rw [step_of_exec_running hrun hp hd hx hu, if_pos hpc]

/-- The increment (R255). -/
theorem step_of_exec_increment (hrun : s.status = .running) (hp : s.pc ≤ 3999)
    (hd : decode (s.mem.read s.pc) = .ok i) (hx : exec i s = .next u) (hu : u.status = .running)
    (hpc : u.pc ≠ 4000) : step s = .next { u with pc := u.pc + 1 } := by
  rw [step_of_exec_running hrun hp hd hx hu, if_neg hpc]

end

/-- Settles O46: `step` looks at the status first. -/
theorem terminalStatusesHaveNoStep : Obligations.TerminalStatusesHaveNoStep :=
  fun _ => ⟨step_of_halted, fun _ _ => step_of_faulted⟩

/-- Settles O45: the step, case by case; the instruction answers some state (`exec_next`). -/
theorem stepRunsTheDecodedInstruction : Obligations.StepRunsTheDecodedInstruction := by
  intro s hrun
  refine ⟨fun hp => step_of_pc_ge hrun hp,
    fun n hp hd => step_of_decode_error hrun (Nat.lt_succ_of_le hp) hd,
    fun n hp hd => step_of_decode_error hrun (Nat.lt_succ_of_le hp) hd, fun i hp hd => ?_⟩
  obtain ⟨u, hx⟩ := exec_next i s
  exact ⟨u, hx, step_of_exec_halt hrun hp hd hx, step_of_exec_increment hrun hp hd hx,
    step_of_exec_not_running hrun hp hd hx⟩

/-- Settles O37: HLT leaves the pc at 4000, so that the halt check stops the step (`step_of_exec_halt`). -/
theorem haltStopsAtTheSentinel : Obligations.HaltStopsAtTheSentinel :=
  ⟨subCoded_of_dispatch fun _ => rfl, fun _ _ =>
    ⟨rfl, fun hrun hp hd => step_of_exec_halt hrun hp hd rfl hrun rfl⟩⟩

/-! ### Which instructions move the pc (10_state.md R30) -/

section
variable {s t : State} {i : Instr}

/-- The instructions that may move the pc: HLT, JSJ, and the jumps that save, which are those that may
write rJ. -/
def mayMovePc (i : Instr) : Prop :=
  i = .hlt i.operand ∨ i = .jsj i.operand ∨ Reg.J ∈ mayWrite i

theorem savingJump_opcode (hJ : Reg.J ∈ mayWrite i) :
    39 ≤ (encode i).b4.toNat ∧ (encode i).b4.toNat ≤ 47 := by
  cases i
  case jmp a | jov a | jnov a | jl a | je a | jg a | jge a | jne a | jle a | jan a | jaz a | jap a |
      jann a | janz a | janp a | j1n a | j1z a | j1p a | j1nn a | j1nz a | j1np a | j2n a | j2z a |
      j2p a | j2nn a | j2nz a | j2np a | j3n a | j3z a | j3p a | j3nn a | j3nz a | j3np a | j4n a |
      j4z a | j4p a | j4nn a | j4nz a | j4np a | j5n a | j5z a | j5p a | j5nn a | j5nz a | j5np a |
      j6n a | j6z a | j6p a | j6nn a | j6nz a | j6np a | jxn a | jxz a | jxp a | jxnn a | jxnz a |
      jxnp a =>
    simp [encode, instrWord]
  all_goals simp [mayWrite] at hJ

theorem savingJump_pc (hJ : Reg.J ∈ mayWrite i) (h : exec i s = .next t) :
    t.pc = s.pc ∨ t.pc = s.effAddr i.operand := by
  obtain ⟨taken, v, hx⟩ := exec_savingJump hJ s
  cases h.symm.trans hx
  exact (jumpsTo_jumpIf s v taken _ true).pc.imp_left And.left

theorem memoryFrame_pc {rs : List Reg} {as : List Nat} (h : MemoryFrame rs as s t) : t.pc = s.pc := by
  obtain ⟨_, _, _, hpc, _⟩ := h
  exact hpc

theorem store_pc {src : Word} {a : Operand} {f : FieldSpec} (h : s.store src a f = .next t) :
    t.pc = s.pc :=
  (keepsPlace_withMemoryWord h fun _ _ hk => by cases hk; exact ⟨rfl, .inl rfl⟩).pc

theorem compare_pc {r : Reg} {a : Operand} {f : FieldSpec} (h : s.compare r a f = .next t) :
    t.pc = s.pc := by
  rcases compare_cases h with ⟨_, rfl⟩ | ⟨_, rfl⟩ <;> rfl

/-- Every other instruction leaves the pc to the increment. -/
theorem exec_pc_of_not_mayMovePc (hi : ¬ mayMovePc i) (h : exec i s = .next t) : t.pc = s.pc := by
  cases i
  case add a f | sub a f => exact (keepsPlace_withMemoryWord h fun _ _ => keepsPlace_addInto).pc
  case mul a f => exact (keepsPlace_withMemoryWord h fun _ _ => keepsPlace_multiplyInto).pc
  case div a f => exact (keepsPlace_withMemoryWord h fun _ _ => keepsPlace_divideInto).pc
  case lda a f | ldx a f => exact memoryFrame_pc (memoryFrame_load h)
  case ldan a f | ldxn a f => exact memoryFrame_pc (memoryFrame_loadNegated h)
  case ld1 a f | ld2 a f | ld3 a f | ld4 a f | ld5 a f | ld6 a f =>
    exact memoryFrame_pc (memoryFrame_loadIndex h)
  case ld1n a f | ld2n a f | ld3n a f | ld4n a f | ld5n a f | ld6n a f =>
    exact memoryFrame_pc (memoryFrame_loadIndexNegated h)
  case sta a f | stx a f | stj a f | stz a f | st1 a f | st2 a f | st3 a f | st4 a f | st5 a f |
      st6 a f =>
    exact store_pc h
  case cmpa a f | cmpx a f | cmp1 a f | cmp2 a f | cmp3 a f | cmp4 a f | cmp5 a f | cmp6 a f =>
    exact compare_pc h
  case inca a | incx a | inc1 a | inc2 a | inc3 a | inc4 a | inc5 a | inc6 a | deca a | decx a |
      dec1 a | dec2 a | dec3 a | dec4 a | dec5 a | dec6 a =>
    exact (transferFrame_addImmediate h).pc
  case enna a | ennx a | enn1 a | enn2 a | enn3 a | enn4 a | enn5 a | enn6 a =>
    exact (transferFrame_enterNegative h).pc
  case enta a | entx a | ent1 a | ent2 a | ent3 a | ent4 a | ent5 a | ent6 a =>
    exact (transferFrame_enter h).pc
  case sla a | sra a | slc a | src a | slax a | srax a | nop a f | nopUnmapped a c f =>
    cases h
    rfl
  case hlt a => exact absurd (.inl rfl) hi
  case jsj a => exact absurd (.inr (.inl rfl)) hi
  all_goals exact absurd (.inr (.inr (List.mem_singleton_self _))) hi

/-- An instruction that moves the pc is HLT, or has an opcode of the jumps and goes to its M. -/
theorem exec_moves_pc (h : exec i s = .next t) (hne : t.pc ≠ s.pc) :
    i = .hlt i.operand ∨
      (39 ≤ (encode i).b4.toNat ∧ (encode i).b4.toNat ≤ 47) ∧ t.pc = s.effAddr i.operand := by
  have hi : mayMovePc i := by
    by_contra hi
    exact hne (exec_pc_of_not_mayMovePc hi h)
  rcases hi with hhlt | hjsj | hJ
  · exact .inl hhlt
  · rw [hjsj] at h ⊢
    cases h
    exact .inr ⟨by simp [encode, instrWord], rfl⟩
  · exact .inr ⟨savingJump_opcode hJ, (savingJump_pc hJ h).resolve_left hne⟩

end

/-! ### How a step ends (R252, R272) -/

section
variable {s t : State}

/-- A step that answers has taken a fault, or has run an instruction that left the machine running and then
halts at pc 4000 or increments the pc. -/
theorem step_outcome (h : step s = .next t) :
    (∃ e, t = s.takeFault e) ∨
    s.pc ≤ 3999 ∧ ∃ i u, decode (s.mem.read s.pc) = .ok i ∧ exec i s = .next u ∧
      u.status = .running ∧
      t = if u.pc = 4000 then { u with status := .halted } else { u with pc := u.pc + 1 } := by
  obtain ⟨hrun, ⟨_, rfl⟩ | ⟨_, e, _, rfl⟩ | ⟨hp, i, u, hd, hx, rfl⟩⟩ := step_cases h
  · exact .inl ⟨_, rfl⟩
  · exact .inl ⟨_, rfl⟩
  · rcases exec_outcome (decode_wellFormed hd) hx with ⟨e, rfl, _⟩ | hplain
    · exact .inl ⟨e, advance_of_faulted (takeFault_status s e)⟩
    · have hu := hplain.status.trans hrun
      exact .inr ⟨Nat.le_of_lt_succ hp, i, u, hd, hx, hu, advance_of_running hu⟩

/-- A step that halts has run an instruction that left the pc at 4000, where the machine stands. -/
theorem step_halted (h : step s = .next t) (ht : t.status = .halted) :
    s.pc ≤ 3999 ∧ ∃ i u, decode (s.mem.read s.pc) = .ok i ∧ exec i s = .next u ∧
      u.status = .running ∧ u.pc = 4000 ∧ t = { u with status := .halted } := by
  rcases step_outcome h with ⟨e, rfl⟩ | ⟨hp, i, u, hd, hx, hu, rfl⟩
  · cases ht
  · by_cases hpc : u.pc = 4000
    · exact ⟨hp, i, u, hd, hx, hu, hpc, if_pos hpc⟩
    · rw [if_neg hpc] at ht
      cases hu.symm.trans ht

/-- A step that ends the run halts at 4000 or faults, and a fault changes nothing but the status (R281). -/
theorem step_ends (h : step s = .next t) (ht : t.status ≠ .running) :
    t.status = .halted ∧ t.pc = 4000 ∨
      ∃ c r, t = { s with status := .faulted c r } ∧ r.pc = t.pc := by
  rcases step_outcome h with ⟨e, rfl⟩ | ⟨_, i, u, _, _, hu, rfl⟩
  · exact .inr ⟨_, _, rfl, rfl⟩
  · by_cases hpc : u.pc = 4000
    · rw [if_pos hpc]
      exact .inl ⟨rfl, hpc⟩
    · rw [if_neg hpc] at ht
      exact absurd hu ht

end

/-- Settles O49: a halting step has run an instruction that left the pc at 4000 (`step_halted`), so that it
moved the pc, and its word is HLT's or a jump's (`exec_moves_pc`, `encode_of_decode`). -/
theorem haltOnlyByHltOrJump : Obligations.HaltOnlyByHltOrJump := by
  intro s t h
  refine ⟨⟨fun ht => ?_, fun ⟨hp, i, u, hd, hx, hu, hpc⟩ => ?_⟩, fun ht => ?_⟩
  · obtain ⟨hp, i, u, hd, hx, hu, hpc, _⟩ := step_halted h ht
    exact ⟨hp, i, u, hd, hx, hu, hpc⟩
  · have hrun : s.status = .running := (step_cases h).1
    cases h.symm.trans (step_of_exec_halt hrun hp hd hx hu hpc)
    rfl
  · obtain ⟨hp, i, u, hd, hx, _, hpc, rfl⟩ := step_halted h ht
    have hne : u.pc ≠ s.pc := by omega
    rw [← encode_of_decode hd, resolvedAddress_encode]
    refine ⟨hpc, (exec_moves_pc hx hne).imp (fun hhlt => ?_) fun ⟨⟨hlo, hhi⟩, hM⟩ => ?_⟩
    · rw [hhlt]
      exact ⟨rfl, rfl⟩
    · exact ⟨hlo, hhi, hM.symm.trans hpc⟩

end Sys2Proof.Machine
end

section
/-! PROOFS. The run (47_control_and_run_loop.md R256): it stays at its end, whatever the fuel, and reaches it
by a step of a running machine. -/

namespace Sys2Proof.Machine

section
variable {s t : State}

theorem runSteps_succ_of_ended {n : Nat} (h : (runSteps n s).status ≠ .running) :
    runSteps (n + 1) s = runSteps n s := by
  rw [runSteps_add, runSteps_of_ended (ended_iff.mpr h)]

/-- More fuel gives the same end. -/
theorem run_add {fuel : Nat} (h : run fuel s = some t) (more : Nat) :
    run (fuel + more) s = some t := by
  obtain ⟨rfl, hend⟩ := run_eq_some.mp h
  exact run_eq_some.mpr ⟨by rw [runSteps_add, runSteps_of_ended hend], hend⟩

theorem runsTo_unique {t' : State} (h : s.RunsTo t) (h' : s.RunsTo t') : t' = t := by
  obtain ⟨fuel, ht⟩ := h
  obtain ⟨fuel', ht'⟩ := h'
  have hsum : run (fuel + fuel') s = some t' := Nat.add_comm fuel' fuel ▸ run_add ht' fuel
  exact Option.some.inj (hsum.symm.trans (run_add ht fuel'))

theorem not_runsForever_iff : ¬ s.RunsForever ↔ ∃ t, s.RunsTo t := by
  simp only [State.RunsForever, State.RunsTo, not_forall, ← ne_eq, Option.ne_none_iff_exists']
  exact exists_comm

/-- The end of a run is the answer of a step from a running state of it. -/
theorem runSteps_last_step (hrun : s.status = .running) {fuel : Nat}
    (hend : (runSteps fuel s).status ≠ .running) :
    ∃ n < fuel, (runSteps n s).status = .running ∧
      step (runSteps n s) = .next (runSteps fuel s) := by
  induction fuel with
  | zero => exact absurd hrun hend
  | succ fuel ih =>
    by_cases h : (runSteps fuel s).status = .running
    · exact ⟨fuel, Nat.lt_succ_self fuel, h, step_runSteps h⟩
    · obtain ⟨n, hn, hlast⟩ := ih h
      rw [runSteps_succ_of_ended h]
      exact ⟨n, Nat.lt_succ_of_lt hn, hlast⟩

end

/-- Settles O59: the end of a run answers its last step (`runSteps_last_step`), which halts or faults
(`step_ends`); and there is at most one end (`runsTo_unique`). -/
theorem runEndsInOneOfThreeWays : Obligations.RunEndsInOneOfThreeWays := by
  refine ⟨fun _ _ _ _ _ _ => rfl, fun s hrun => ⟨rfl, fun _ => step_runSteps,
    fun _ => runSteps_succ_of_ended, fun _ => run_eq_none, fun fuel t h => ⟨run_add h, ?_⟩, ?_⟩⟩
  · obtain ⟨rfl, hend⟩ := run_eq_some.mp h
    have hne := ended_iff.mp hend
    obtain ⟨n, hn, hr, hstep⟩ := runSteps_last_step hrun hne
    exact ⟨n, hn, hr, hstep, step_ends hstep hne⟩
  · by_cases hforever : s.RunsForever
    · exact .inr ⟨hforever, fun t ht => not_runsForever_iff.mpr ⟨t, ht⟩ hforever⟩
    · obtain ⟨t, ht⟩ := not_runsForever_iff.mp hforever
      exact .inl ⟨⟨t, ht, fun _ => runsTo_unique ht⟩, hforever⟩

/-- Settles O60: every step keeps the invariant and the peripheral area, so the run does
(`runSteps_induction`); an end state is a state of the run. -/
theorem runKeepsInvariantAndPeripheralArea : Obligations.RunKeepsInvariantAndPeripheralArea := by
  intro s hs
  have hkeeps : ∀ n, (runSteps n s).Inv ∧ (runSteps n s).periph = s.periph :=
    runSteps_induction (P := fun u => u.Inv ∧ u.periph = s.periph)
      (fun u v ⟨hinv, hper⟩ h =>
        ⟨everyStepKeepsTheInvariant u v hinv h, (step_periph h).trans hper⟩) ⟨hs, rfl⟩
  refine ⟨hkeeps, fun t ⟨fuel, h⟩ => ?_⟩
  obtain ⟨rfl, hend⟩ := run_eq_some.mp h
  exact ⟨(hkeeps fuel).1, (hkeeps fuel).2, ended_iff.mp hend⟩

end Sys2Proof.Machine
end

section
/-! PROOFS. Launch (70_reset_and_hazards.md R300 to R305): the loader's image is the memory read back word by
word, in canonical form, and the reset state is one of the launches. -/

namespace Sys2Proof.Machine

/-- The memory of an image placed at `a` reads back the image. -/
theorem read_ofImageFrom :
    ∀ (image : List Word) (a : Nat), a + image.length ≤ 4000 → ∀ (k : Nat) (h : k < image.length),
      (Memory.ofImageFrom a image).read (a + k) = image[k]
  | w :: ws, a, hlen, k, hk => by
    rw [List.length_cons] at hlen
    have hwf := wfFrom_ofImageFrom ws (a + 1) (by omega)
    rw [Memory.ofImageFrom, read_cell hwf (Nat.lt_succ_self a)]
    cases k with
    | zero => exact if_pos rfl
    | succ k =>
      rw [if_neg (by omega), show a + (k + 1) = a + 1 + k by omega]
      exact read_ofImageFrom ws (a + 1) (by omega) k (Nat.lt_of_succ_lt_succ hk)

/-- Settles O1: the image is read back (`read_ofImageFrom`), the other fields are the arguments, and a step
checks the pc first. -/
theorem launchHoldsItsInputs : Obligations.LaunchHoldsItsInputs := by
  intro image pc0 periph0 regs0 ov0 cmp0 hlen s
  refine ⟨fun k hk => ?_, rfl, rfl, fun r => ?_, rfl, rfl, rfl, fun hp => step_of_pc_ge rfl hp⟩
  · have hread := read_ofImageFrom image 0 (by omega) k hk
    rwa [Nat.zero_add] at hread
  · cases r <;> rfl

/-- An image of `+0` words lists nothing. -/
theorem ofImageFrom_replicate_zero (n a : Nat) :
    Memory.ofImageFrom a (List.replicate n Word.zero) = [] := by
  induction n generalizing a with
  | zero => rfl
  | succ n ih =>
    rw [List.replicate_succ, Memory.ofImageFrom, ih]
    exact if_pos rfl

/-- Settles O2: the image lists nothing, as the memory of the reset state, and the other fields are equal. -/
theorem resetIsTheSuggestedLaunch : Obligations.ResetIsTheSuggestedLaunch := by
  have hmem : Memory.ofImage (List.replicate 4000 Word.zero) = [] := ofImageFrom_replicate_zero 4000 0
  rw [Obligations.ResetIsTheSuggestedLaunch, State.launch, hmem]
  rfl

theorem launch_inv {image : List Word} {pc0 : Nat} (periph0 : Vector Byte Config.periphBytes)
    (regs0 : Reg → Word) (ov0 : Bool) (cmp0 : Cmp) (hlen : image.length = 4000)
    (hpc : pc0 ≤ 131071) : (State.launch image pc0 periph0 regs0 ov0 cmp0).Inv where
  memCanonical := wfFrom_ofImageFrom image 0 (by omega)
  pcInRange := hpc
  status := trivial

/-- Settles O52: the reset state is a launch (`resetIsTheSuggestedLaunch`). -/
theorem invariantHoldsAtLaunch : Obligations.InvariantHoldsAtLaunch := by
  refine ⟨?_, fun _ _ periph0 regs0 ov0 cmp0 => launch_inv periph0 regs0 ov0 cmp0⟩
  rw [resetIsTheSuggestedLaunch]
  exact launch_inv _ _ _ _ List.length_replicate (Nat.zero_le _)

end Sys2Proof.Machine
end

section
/-! PROOFS. The faults of a step (60_exceptions.md R270 to R281). An instruction either addresses memory, and
then `RaisedBy` says what the word at M makes it raise, or ends with the status it began with; the causes of
the fault table are read off that and off what the decoder refuses (`decode_outcome`). -/

namespace Sys2Proof.Machine

/-! ### What the word at M makes an instruction raise (R270, codes 2, 3 and 7) -/

/-- The opcodes of the loads of an index register (30_encoding.md section 4). -/
def indexLoadOpcode (c : Nat) : Prop := (9 ≤ c ∧ c ≤ 14) ∨ (17 ≤ c ∧ c ≤ 22)

/-- The fault `e` that an instruction with opcode `c` and window `f` raises on the word `d` at M. -/
def RaisedBy (s : State) (c : Nat) (f : FieldSpec) (d : Word) (e : Raised) : Prop :=
  indexLoadOpcode c ∧ fieldNumber f ∈ [9, 10, 11, 18, 19, 27] ∧
      e = ⟨.invalidFieldSpec, fieldNumber f⟩ ∨
    (1 ≤ c ∧ c ≤ 4) ∧ fieldNumber f = 0 ∧ e = ⟨.arithmeticDomainFault, 0⟩ ∨
    c = 4 ∧ fieldNumber f ≠ 0 ∧ (fieldValue d f).natAbs ≠ 0 ∧ (fieldValue d f).natAbs ≤ mag s.rA ∧
      e = ⟨.quotientOverflow, (mag s.rA * 256 ^ 5 + mag s.rX) / (fieldValue d f).natAbs⟩

/-- The answer of an instruction with opcode `c` and window `f` on the word `d` at M: with the status left
alone where `RaisedBy` gives no fault, or else the fault it gives. -/
inductive EndsAs (s : State) (c : Nat) (f : FieldSpec) (d : Word) : Except Raised State → Prop
  | ok {t : State} (hstatus : t.status = s.status) (hnone : ∀ e, ¬ RaisedBy s c f d e) :
    EndsAs s c f d (.ok t)
  | error {e : Raised} (honly : ∀ e', RaisedBy s c f d e' ↔ e' = e) : EndsAs s c f d (.error e)

section
variable {s : State} {c : Nat} {f : FieldSpec} {d : Word} {e : Raised}

theorem EndsAs.error_iff {r : Except Raised State} (h : EndsAs s c f d r) :
    r = .error e ↔ RaisedBy s c f d e := by
  cases h with
  | ok _ hnone => exact iff_of_false nofun (hnone e)
  | error honly => rw [honly, Except.error.injEq, eq_comm]

theorem EndsAs.ok_status {t : State} (h : EndsAs s c f d (.ok t)) : t.status = s.status := by
  cases h with
  | ok hstatus _ => exact hstatus

theorem fieldNumber_eq_zero_iff (hv : f.valid = true) : fieldNumber f = 0 ↔ f.right = 0 := by
  obtain ⟨hle, _⟩ := valid_iff.mp hv
  unfold fieldNumber
  omega

theorem raisedBy_indexLoad_iff (hload : indexLoadOpcode c) :
    RaisedBy s c f d e ↔ fieldNumber f ∈ [9, 10, 11, 18, 19, 27] ∧
      e = ⟨.invalidFieldSpec, fieldNumber f⟩ := by
  have harith : ¬ (1 ≤ c ∧ c ≤ 4) ∧ c ≠ 4 := by unfold indexLoadOpcode at hload; omega
  simp only [RaisedBy, hload, harith, true_and, false_and, or_false]

theorem raisedBy_addOrMultiply_iff (h1 : 1 ≤ c) (h3 : c ≤ 3) (hv : f.valid = true) :
    RaisedBy s c f d e ↔ f.right = 0 ∧ e = domainFault f := by
  have hother : ¬ indexLoadOpcode c ∧ (1 ≤ c ∧ c ≤ 4) ∧ c ≠ 4 := by unfold indexLoadOpcode; omega
  simp only [RaisedBy, hother, true_and, false_and, or_false, false_or, fieldNumber_eq_zero_iff hv]
  exact and_congr_right fun hr => by rw [domainFault_eq hv hr]

theorem raisedBy_divide_iff (hv : f.valid = true) : RaisedBy s 4 f d e ↔
    f.right = 0 ∧ e = domainFault f ∨ f.right ≠ 0 ∧ (fieldValue d f).natAbs ≠ 0 ∧
      (fieldValue d f).natAbs ≤ mag s.rA ∧
      e = ⟨.quotientOverflow, (mag s.rA * 256 ^ 5 + mag s.rX) / (fieldValue d f).natAbs⟩ := by
  have hother : ¬ indexLoadOpcode 4 ∧ (1 ≤ 4 ∧ 4 ≤ 4) := by unfold indexLoadOpcode; decide
  simp only [RaisedBy, hother, true_and, false_and, false_or, ne_eq, fieldNumber_eq_zero_iff hv]
  exact or_congr_left (and_congr_right fun hr => by rw [domainFault_eq hv hr])

/-- Loads of rA and rX, stores and compares raise nothing. -/
theorem endsAs_ok {t : State} (hc : 4 < c) (hload : ¬ indexLoadOpcode c) (ht : t.status = s.status) :
    EndsAs s c f d (.ok t) := by
  have harith : ¬ (1 ≤ c ∧ c ≤ 4) ∧ c ≠ 4 := by omega
  exact .ok ht fun e => by simp only [RaisedBy, hload, harith, false_and, or_false, not_false_eq_true]

section
variable (hload : indexLoadOpcode c) (hv : f.valid = true)
include hload hv

/-- An answer that follows the field check of an index-register load (40_datapath.md R103). -/
theorem endsAs_of_fieldCheck {dst : Word} {r : Except Raised State}
    (herr : ∀ e, copyWordFieldsI d dst f = .error e → r = .error e)
    (hok : ∀ w, copyWordFieldsI d dst f = .ok w → ∃ t, r = .ok t ∧ t.status = s.status) :
    EndsAs s c f d r := by
  obtain ⟨hsix, hother⟩ := indexLoadFieldCheck d dst f hv
  by_cases hF : fieldNumber f ∈ [9, 10, 11, 18, 19, 27]
  · rw [herr _ (hsix hF)]
    exact .error fun e => (raisedBy_indexLoad_iff hload).trans (and_iff_right hF)
  · obtain ⟨t, hr, ht⟩ := hok _ (hother hF)
    rw [hr]
    exact .ok ht fun e he => hF ((raisedBy_indexLoad_iff hload).mp he).1

theorem loadIndex_endsAs (x : IndexReg) (a : Operand) :
    ∃ k, s.loadIndex x a f = s.withMemoryWord (s.effAddr a) k ∧ ∀ d, EndsAs s c f d (k d) :=
  ⟨_, rfl, fun _ => endsAs_of_fieldCheck hload hv (fun _ h => by rw [h])
    fun _ h => ⟨_, by rw [h], setReg_status s _ _⟩⟩

theorem loadIndexNegated_endsAs (x : IndexReg) (a : Operand) :
    ∃ k, s.loadIndexNegated x a f = s.withMemoryWord (s.effAddr a) k ∧
      ∀ d, EndsAs s c f d (k d) :=
  ⟨_, rfl, fun _ => endsAs_of_fieldCheck hload hv (fun _ h => by rw [h])
    fun _ h => ⟨_, by rw [h], setReg_status s _ _⟩⟩

end

section
variable (h1 : 1 ≤ c) (h3 : c ≤ 3) (hv : f.valid = true)
include h1 h3 hv

theorem endsAs_addInto (r : Reg) (w : Word) : EndsAs s c f d (s.addInto r w f) := by
  rcases addInto_cases s r w f with ⟨hr, h⟩ | ⟨hr, res, ov, _, h⟩ <;> rw [h]
  · exact .error fun e => (raisedBy_addOrMultiply_iff h1 h3 hv).trans (and_iff_right hr)
  · exact .ok (setReg_status s r res) fun e he => hr ((raisedBy_addOrMultiply_iff h1 h3 hv).mp he).1

theorem endsAs_multiplyInto (w : Word) : EndsAs s c f d (s.multiplyInto w f) := by
  rcases multiplyInto_cases s w f with ⟨hr, h⟩ | ⟨hr, u, l, _, h⟩ <;> rw [h]
  · exact .error fun e => (raisedBy_addOrMultiply_iff h1 h3 hv).trans (and_iff_right hr)
  · exact .ok rfl fun e he => hr ((raisedBy_addOrMultiply_iff h1 h3 hv).mp he).1

end

/-- The four answers of the divider (40_datapath.md R108). -/
theorem endsAs_divideInto (hv : f.valid = true) : EndsAs s 4 f d (s.divideInto d f) := by
  by_cases hr : f.right = 0
  · rw [divideInto_of_error (if_pos (onlyZero_iff.mpr hr))]
    exact .error fun e => by simp [raisedBy_divide_iff hv, hr]
  by_cases h0 : (fieldValue d f).natAbs = 0
  · rw [divideInto_of_ok (divideWords_by_zero hr h0)]
    exact .ok rfl fun e => by simp [raisedBy_divide_iff hv, hr, h0]
  rcases Nat.lt_or_ge (mag s.rA) (fieldValue d f).natAbs with hlt | hle
  · rw [divideInto_of_ok (divideWords_ok hr rfl hlt)]
    exact .ok rfl fun e => by simp [raisedBy_divide_iff hv, hr, hlt]
  · rw [divideInto_of_error (divideWords_overflow hr rfl h0 hle)]
    exact .error fun e => by simp [raisedBy_divide_iff hv, hr, hle, Int.natAbs_eq_zero.not.mp h0]

end

/-! ### Every instruction: it addresses memory, or it takes no fault -/

/-- The instruction has an opcode of the FIELD class and goes on with the word at M, by its opcode and
window. -/
def AddressesMemory (i : Instr) (s : State) : Prop :=
  fieldOpcode (encode i).b4.toNat ∧ ∃ k, exec i s = s.withMemoryWord (s.effAddr i.operand) k ∧
    ∀ d, EndsAs s (encode i).b4.toNat (splitField (encode i).b3) d (k d)

theorem addressesMemory_of_window {i : Instr} {s : State} {f : FieldSpec}
    (hclass : fieldOpcode (encode i).b4.toNat)
    (hf : (encode i).b3 = fieldByte f) (hv : f.valid = true)
    (hx : ∃ k, exec i s = s.withMemoryWord (s.effAddr i.operand) k ∧
      ∀ d, EndsAs s (encode i).b4.toNat f d (k d)) : AddressesMemory i s := by
  rw [AddressesMemory, hf, splitField_fieldByte hv]
  exact ⟨hclass, hx⟩

/-- The instruction has an opcode outside the FIELD class and takes no fault. -/
def KeepsStatus (i : Instr) (s : State) : Prop :=
  ¬ fieldOpcode (encode i).b4.toNat ∧ ∀ t, exec i s = .next t → t.status = s.status

/-- Every instruction is of one of the two kinds; the FIELD-class ones are taken by the unit they use. -/
theorem addressesMemory_or_keepsStatus {i : Instr} (hw : i.wellFormed = true) (s : State) :
    AddressesMemory i s ∨ KeepsStatus i s := by
  cases i
  case add a f | sub a f =>
    refine .inl (addressesMemory_of_window ?_ rfl hw
      ⟨_, rfl, fun _ => endsAs_addInto ?_ ?_ hw _ _⟩) <;>
      simp [fieldOpcode, encode, instrWord]
  case mul a f =>
    refine .inl (addressesMemory_of_window ?_ rfl hw
      ⟨_, rfl, fun _ => endsAs_multiplyInto ?_ ?_ hw _⟩) <;>
      simp [fieldOpcode, encode, instrWord]
  case div a f =>
    refine .inl (addressesMemory_of_window ?_ rfl hw ⟨_, rfl, fun _ => endsAs_divideInto hw⟩)
    simp [fieldOpcode, encode, instrWord]
  case ld1 a f | ld2 a f | ld3 a f | ld4 a f | ld5 a f | ld6 a f =>
    refine .inl (addressesMemory_of_window ?_ rfl hw (loadIndex_endsAs ?_ hw _ a)) <;>
      simp [fieldOpcode, indexLoadOpcode, encode, instrWord]
  case ld1n a f | ld2n a f | ld3n a f | ld4n a f | ld5n a f | ld6n a f =>
    refine .inl (addressesMemory_of_window ?_ rfl hw (loadIndexNegated_endsAs ?_ hw _ a)) <;>
      simp [fieldOpcode, indexLoadOpcode, encode, instrWord]
  case lda a f | ldx a f | ldan a f | ldxn a f | sta a f | stx a f | stj a f | stz a f | st1 a f |
      st2 a f | st3 a f | st4 a f | st5 a f | st6 a f | cmpa a f | cmpx a f | cmp1 a f | cmp2 a f |
      cmp3 a f | cmp4 a f | cmp5 a f | cmp6 a f =>
    refine .inl (addressesMemory_of_window ?_ rfl hw ⟨_, rfl, fun _ => endsAs_ok ?_ ?_ rfl⟩) <;>
      simp [fieldOpcode, indexLoadOpcode, encode, instrWord]
  case nopUnmapped a c f =>
    have hc : ¬ fieldOpcode c.toNat := by
      have := unmappedPair_iff.mp hw
      unfold fieldOpcode
      omega
    exact .inr ⟨hc, by rintro _ ⟨⟩; rfl⟩
  case inca a | incx a | inc1 a | inc2 a | inc3 a | inc4 a | inc5 a | inc6 a | deca a | decx a |
      dec1 a | dec2 a | dec3 a | dec4 a | dec5 a | dec6 a =>
    exact .inr ⟨by simp [fieldOpcode, encode, instrWord],
      fun _ h => (transferFrame_addImmediate h).status⟩
  case enna a | ennx a | enn1 a | enn2 a | enn3 a | enn4 a | enn5 a | enn6 a =>
    exact .inr ⟨by simp [fieldOpcode, encode, instrWord],
      fun _ h => (transferFrame_enterNegative h).status⟩
  case enta a | entx a | ent1 a | ent2 a | ent3 a | ent4 a | ent5 a | ent6 a | sla a | sra a |
      slc a | src a | slax a | srax a | hlt a | nop a f =>
    exact .inr ⟨by simp [fieldOpcode, encode, instrWord], by rintro _ ⟨⟩; rfl⟩
  all_goals
    exact .inr ⟨by simp [fieldOpcode, encode, instrWord],
      by rintro _ ⟨⟩; exact jumpIf_status _ _ _ _⟩

/-! ### The instruction of the word at the pc -/

section
variable {w : Word}

/-- A FIELD-class word with a valid selector and window runs as its own bytes say. -/
theorem decode_addressesMemory (h6 : w.b2.toNat ≤ 6) (hc : fieldOpcode w.b4.toNat)
    (hv : validField w.b3.toNat) (s : State) :
    ∃ i k, decode w = .ok i ∧ exec i s = s.withMemoryWord (resolvedAddress s w) k ∧
      ∀ d, EndsAs s w.b4.toNat (splitField w.b3) d (k d) := by
  obtain ⟨_, _, haccepts⟩ := decodeRefusesExactly w
  obtain ⟨i, hd⟩ := haccepts.mp ⟨h6, fun _ => hv⟩
  rcases addressesMemory_or_keepsStatus (decode_wellFormed hd) s with ⟨_, k, hx, hk⟩ | ⟨hno, _⟩
  · rw [← resolvedAddress_encode, encode_of_decode hd] at hx
    rw [encode_of_decode hd] at hk
    exact ⟨i, k, hd, hx, hk⟩
  · rw [encode_of_decode hd] at hno
    exact absurd hc hno

theorem exec_status_of_not_fieldOpcode {i : Instr} {s t : State} (hd : decode w = .ok i)
    (hc : ¬ fieldOpcode w.b4.toNat) (hx : exec i s = .next t) : t.status = s.status := by
  rcases addressesMemory_or_keepsStatus (decode_wellFormed hd) s with ⟨hyes, _⟩ | ⟨_, hkeeps⟩
  · rw [encode_of_decode hd] at hyes
    exact absurd hyes hc
  · exact hkeeps t hx

end

/-! ### The fault table (R270, R280) -/

section
variable {s : State} {c : FaultCode} {n : Nat} {e : Raised}

theorem fieldNumber_div_mod (n : Nat) : fieldNumber ⟨n / 8, n % 8⟩ = n :=
  Nat.div_add_mod n 8

/-- Once the word decodes and M is in memory, the causes left in the table are those of `RaisedBy`. -/
theorem faultCause_iff_raisedBy (hp : s.pc ≤ 3999) (h6 : (s.mem.read s.pc).b2.toNat ≤ 6)
    (hc : fieldOpcode (s.mem.read s.pc).b4.toNat) (hv : validField (s.mem.read s.pc).b3.toNat)
    (hm : resolvedAddress s (s.mem.read s.pc) ≤ 3999) :
    FaultCause s c n ↔ RaisedBy s (s.mem.read s.pc).b4.toNat (splitField (s.mem.read s.pc).b3)
      (s.mem.read (resolvedAddress s (s.mem.read s.pc))) ⟨c, n⟩ := by
  cases c
  case invalidIndex | fieldSpecOutOfRange | addressOutOfRange | fetchOutOfRange =>
    have h7 : ¬ 7 ≤ (s.mem.read s.pc).b2.toNat := Nat.not_le.mpr (Nat.lt_succ_of_le h6)
    simp [FaultCause, RaisedBy, h7, hv, hp, hm]
  all_goals
    simp only [FaultCause, RaisedBy, indexLoadOpcode, splitField, fieldNumber_div_mod, hp, h6, hc, hv,
      hm, Raised.mk.injEq, reduceCtorEq, true_and, false_and, and_false, or_false, false_or, and_assoc]

theorem takeFault_injective (s : State) : Function.Injective s.takeFault := by
  rintro ⟨c, n⟩ ⟨c', n'⟩ h
  have hstatus := congrArg State.status h
  simpa using hstatus

theorem step_of_exec_fault {i : Instr} (hrun : s.status = .running) (hp : s.pc ≤ 3999)
    (hd : decode (s.mem.read s.pc) = .ok i) (hx : exec i s = .next (s.takeFault e)) :
    step s = .next (s.takeFault e) :=
  step_of_exec_not_running hrun hp hd hx (by simp)

/-- A cause of the table makes the step fault. -/
theorem step_of_faultCause (hrun : s.status = .running) (h : FaultCause s c n) :
    step s = .next (s.takeFault ⟨c, n⟩) := by
  cases c
  case fetchOutOfRange =>
    obtain ⟨hp, rfl⟩ := h
    exact step_of_pc_ge hrun hp
  case invalidIndex =>
    obtain ⟨hp, h7, rfl⟩ := h
    exact step_of_decode_error hrun (Nat.lt_succ_of_le hp) (decode_of_selector_ge h7)
  case fieldSpecOutOfRange =>
    obtain ⟨hp, h6, hc, hv, rfl⟩ := h
    obtain ⟨_, hfield, _⟩ := decodeRefusesExactly (s.mem.read s.pc)
    exact step_of_decode_error hrun (Nat.lt_succ_of_le hp) (hfield.mp ⟨h6, hc, hv⟩)
  case addressOutOfRange =>
    obtain ⟨⟨hp, h6, hc, hv⟩, hm, rfl⟩ := h
    obtain ⟨i, k, hd, hx, _⟩ := decode_addressesMemory h6 hc hv s
    exact step_of_exec_fault hrun hp hd (hx.trans (withMemoryWord_outOfRange hm))
  all_goals
    obtain ⟨⟨hp, h6, hc, hv⟩, hm, _⟩ := id h
    obtain ⟨i, k, hd, hx, hk⟩ := decode_addressesMemory h6 hc hv s
    have hraised := (hk _).error_iff.mpr ((faultCause_iff_raisedBy hp h6 hc hv hm).mp h)
    exact step_of_exec_fault hrun hp hd (hx.trans (withMemoryWord_of_error hm hraised))

/-- An instruction that faults meets a cause of the table. -/
theorem faultCause_of_exec {i : Instr} (hrun : s.status = .running) (hp : s.pc ≤ 3999)
    (hd : decode (s.mem.read s.pc) = .ok i) (hx : exec i s = .next (s.takeFault e)) :
    FaultCause s e.code e.info := by
  have hne : (s.takeFault e).status ≠ s.status := by simp [hrun]
  obtain ⟨_, _, haccepts⟩ := decodeRefusesExactly (s.mem.read s.pc)
  obtain ⟨h6, hcv⟩ := haccepts.mpr ⟨i, hd⟩
  by_cases hc : fieldOpcode (s.mem.read s.pc).b4.toNat
  · have hv := hcv hc
    obtain ⟨j, k, hd', hx', hk⟩ := decode_addressesMemory h6 hc hv s
    cases hd.symm.trans hd'
    rcases withMemoryWord_cases (hx'.symm.trans hx) with ⟨hm, ht⟩ | ⟨_, hok⟩ | ⟨hm, e', herr, ht⟩
    · cases takeFault_injective s ht
      exact ⟨⟨hp, h6, hc, hv⟩, hm, rfl⟩
    · exact absurd (hok ▸ hk _).ok_status hne
    · cases takeFault_injective s ht
      exact (faultCause_iff_raisedBy hp h6 hc hv (Nat.le_of_lt_succ hm)).mpr
        ((hk _).error_iff.mp herr)
  · exact absurd (exec_status_of_not_fieldOpcode hd hc hx) hne

theorem advance_of_status_faulted {u : State} {r : FaultRecord}
    (h : u.advance.status = .faulted c r) : u.advance = u := by
  refine advance_of_not_running fun hu => ?_
  rw [advance_of_running hu] at h
  split at h
  · cases h
  · cases hu.symm.trans h

/-- A step that faults meets a cause of the table. -/
theorem faultCause_of_step (h : step s = .next (s.takeFault e)) : FaultCause s e.code e.info := by
  obtain ⟨hrun, ⟨hp, ht⟩ | ⟨hp, e', hd, ht⟩ | ⟨hp, i, u, hd, hx, ht⟩⟩ := step_cases h
  · cases takeFault_injective s ht
    exact ⟨hp, rfl⟩
  · cases takeFault_injective s ht
    have hp := Nat.le_of_lt_succ hp
    rcases decode_outcome (s.mem.read s.pc) with ⟨h7, hd'⟩ | ⟨h6, hc, hv, hd'⟩ | ⟨_, _, _, hd'⟩ <;>
      cases hd.symm.trans hd'
    · exact ⟨hp, h7, rfl⟩
    · exact ⟨hp, h6, hc, hv, rfl⟩
  · rw [advance_of_status_faulted (ht ▸ takeFault_status s e)] at ht
    exact faultCause_of_exec hrun (Nat.le_of_lt_succ hp) hd (ht ▸ hx)

/-- A step that answers a faulted state has taken the fault its status holds. -/
theorem step_faulted {t : State} {r : FaultRecord} (h : step s = .next t)
    (ht : t.status = .faulted c r) :
    t = s.takeFault ⟨c, r.info⟩ ∧ r = ⟨s.pc, s.fetchedWord, r.info⟩ := by
  rcases step_outcome h with ⟨e, rfl⟩ | ⟨_, i, u, _, _, hu, rfl⟩
  · cases ht
    exact ⟨rfl, rfl⟩
  · split at ht
    · cases ht
    · cases hu.symm.trans ht

theorem faultCause_of_step_faulted {t : State} {r : FaultRecord} (h : step s = .next t)
    (ht : t.status = .faulted c r) : FaultCause s c r.info := by
  obtain ⟨rfl, _⟩ := step_faulted h ht
  exact faultCause_of_step h

/-- Only the fetch fault is met outside memory. -/
theorem FaultCause.fetch_iff (h : FaultCause s c n) : c = .fetchOutOfRange ↔ 3999 < s.pc := by
  cases c
  case fetchOutOfRange => exact iff_of_true rfl h.1
  case invalidIndex | fieldSpecOutOfRange => exact iff_of_false nofun (Nat.not_lt.mpr h.1)
  all_goals exact iff_of_false nofun (Nat.not_lt.mpr h.1.1)

end

/-- Settles O48: a cause makes the step fault (`step_of_faultCause`), and a step that faults meets a cause
(`faultCause_of_step`). -/
theorem faultTaxonomyIsExact : Obligations.FaultTaxonomyIsExact := by
  refine ⟨rfl, fun s hrun => ⟨fun c n => ⟨faultCause_of_step (e := ⟨c, n⟩), step_of_faultCause hrun⟩,
    fun t c r => faultCause_of_step_faulted, fun hnone => ?_⟩⟩
  obtain ⟨t, h⟩ := step_next hrun
  refine ⟨t, h, ?_⟩
  cases ht : t.status with
  | running => exact .inl rfl
  | halted => exact .inr rfl
  | faulted c r => exact absurd (faultCause_of_step_faulted h ht) (hnone c r.info)

/-- Settles O47: the state a fault leaves is written out by `step_faulted`, and the cause of the fault says
where the pc was (`FaultCause.fetch_iff`). -/
theorem faultsArePrecise : Obligations.FaultsArePrecise := by
  intro s t c r h ht
  have hfetch := (faultCause_of_step_faulted h ht).fetch_iff
  obtain ⟨rfl, hr⟩ := step_faulted h ht
  rw [hr]
  exact ⟨rfl, rfl, fun hp => fetchedWord_of_lt (Nat.lt_succ_of_le hp), fetchedWord_of_ge, hfetch⟩

end Sys2Proof.Machine
end
